-- ==== Sys2Proof/Word.lean ====
section
/-! DEFINITION. The bit widths of the block (spec/00_scope.md R10): the only values the spec shifts, masks or shows as words. -/

namespace Sys2Proof

/-- A register of the host bus, W_REG = 32 bits (R10). -/
abbrev Word := BitVec 32

/-- A symbol, a stream byte, an opcode, a code length (R10). -/
abbrev Byte := BitVec 8

/-- A node index, W_IDX = 9 bits (R29). -/
abbrev Idx := BitVec 9

/-- A byte offset of the register space, W_ADDR = 14 bits (R53). -/
abbrev Offset := BitVec 14

/-- The value of a code, right-aligned, first bit most significant (R34). -/
abbrev Code := BitVec 256

end Sys2Proof
end

