-- ==== Sys2Proof/Syntax.lean ====
section
/-! DEFINITION. The commands of spec/30_encoding.md R74: one constructor for each row of spec/opcode_table.json. No command has an
operand field (R76). -/

namespace Sys2Proof

/-- A command (R74). -/
inductive Instr
  | nop             -- R98
  | softReset       -- R99
  | clearErr        -- R100
  | freqClear       -- R102
  | freqCount       -- R103
  | heapBuild       -- R111
  | treeStep        -- R114
  | treeBuild       -- R115
  | codesDerive     -- R119
  | treeSerialize   -- R123
  | treeDeserialize -- R124
  | pack            -- R130
  | unpack          -- R134
  | compress        -- R139
  | decompress      -- R141
deriving DecidableEq, Repr

end Sys2Proof
end

