-- ==== Sys2Proof/WellFormed.lean ====
section
/-! DEFINITION. Which instructions and which command words are well formed (spec/30_encoding.md R73 to R77). -/

namespace Sys2Proof

/-- Every command is well formed: it has no operand to be out of range (R76). -/
def Instr.wellFormed : Instr → Bool
  | .nop | .softReset | .clearErr | .freqClear | .freqCount | .heapBuild | .treeStep | .treeBuild
  | .codesDerive | .treeSerialize | .treeDeserialize | .pack | .unpack | .compress | .decompress => true

/-- The first check of a command word: RSVD, bits [31:8], is 0 (R73). -/
def CommandWord.rsvdZero (w : Word) : Bool := w.extractLsb' 8 24 == 0

/-- The opcodes of R74. -/
def CommandWord.opcodes : List Byte :=
  [0x00, 0x01, 0x02, 0x10, 0x11, 0x20, 0x30, 0x31, 0x40, 0x50, 0x51, 0x60, 0x70, 0x80, 0x81]

/-- The second check of a command word: OPCODE, bits [7:0], is in the map of R74. -/
def CommandWord.opcodeListed (w : Word) : Bool := CommandWord.opcodes.contains (w.setWidth 8)

/-- A command word that names a command (R75, R77). -/
def CommandWord.wellFormed (w : Word) : Bool := CommandWord.rsvdZero w && CommandWord.opcodeListed w

end Sys2Proof
end

