-- ==== Sys2Proof/Decode.lean ====
section
/-! DEFINITION. Decoding a command word (spec/30_encoding.md R73 to R78), and after it the encoder. -/

namespace Sys2Proof

/-- Why a word is no command (R75, R77). Both raise E_BAD_CMD in the machine. -/
inductive DecodeError
  | reservedBits    -- w[31:8] is not 0
  | unknownOpcode   -- w[7:0] is in no row of R74
  | notOneWord      -- the bytes are not the four lanes of one word (R18, R78)
deriving DecidableEq, Repr

/-- What the decoder answers. -/
inductive Decoded
  | command (i : Instr)
  | illegal (why : DecodeError)
deriving DecidableEq, Repr

/-- The OPCODE field, bits [7:0] (R73). -/
def opcodeField (w : Word) : Byte := w.setWidth 8

/-- The RSVD field, bits [31:8] (R73). -/
def rsvdField (w : Word) : BitVec 24 := w.extractLsb' 8 24

/-- The opcode map of R74, row by row. -/
def opcodeMap : List (Byte × Instr) :=
  [ (0x00, .nop), (0x01, .softReset), (0x02, .clearErr),
    (0x10, .freqClear), (0x11, .freqCount),
    (0x20, .heapBuild),
    (0x30, .treeStep), (0x31, .treeBuild),
    (0x40, .codesDerive),
    (0x50, .treeSerialize), (0x51, .treeDeserialize),
    (0x60, .pack),
    (0x70, .unpack),
    (0x80, .compress), (0x81, .decompress) ]

/-- R75: the RSVD check, then the OPCODE check, then the row. -/
def decode (w : Word) : Decoded :=
  if rsvdField w ≠ 0 then .illegal .reservedBits
  else match opcodeMap.lookup (opcodeField w) with
    | some i => .command i
    | none => .illegal .unknownOpcode

/-- The word on the four byte lanes of the bus, lane 0 (bits [7:0]) first (R59). -/
def wordOfLanes (b0 b1 b2 b3 : Byte) : Word := (b3 ++ b2 ++ b1 ++ b0 : BitVec 32)

/-- Decoding any bytes: a command is exactly one 32-bit word (R78). -/
def decodeBytes : List Byte → Decoded
  | [b0, b1, b2, b3] => decode (wordOfLanes b0 b1 b2 b3)
  | _ => .illegal .notOneWord

/-- The OPCODE of a command (R74). -/
def opcodeOf : Instr → Byte
  | .nop => 0x00
  | .softReset => 0x01
  | .clearErr => 0x02
  | .freqClear => 0x10
  | .freqCount => 0x11
  | .heapBuild => 0x20
  | .treeStep => 0x30
  | .treeBuild => 0x31
  | .codesDerive => 0x40
  | .treeSerialize => 0x50
  | .treeDeserialize => 0x51
  | .pack => 0x60
  | .unpack => 0x70
  | .compress => 0x80
  | .decompress => 0x81

/-- The command word of a command: its OPCODE below 24 zero bits (R73, R74). -/
def encode (i : Instr) : Word := (opcodeOf i).setWidth 32

/-- The four byte lanes of a command's word (R59). -/
def encodeBytes (i : Instr) : List Byte :=
  [(encode i).extractLsb' 0 8, (encode i).extractLsb' 8 8, (encode i).extractLsb' 16 8, (encode i).extractLsb' 24 8]

/-- The word the table's numbering gives: `nbits` bits of `w`, every bit above them 0. None when they do not fit one word. -/
def tableWord (nbits w : Nat) : Option Word :=
  if w % 2 ^ nbits < 2 ^ 32 then some (BitVec.ofNat 32 (w % 2 ^ nbits)) else none

/-- What the decoder reads from a word of spec/opcode_table.json: bit 0 of `w` is bit 0 of the command word. -/
def decodeTableWord (nbits w : Nat) : Option Instr :=
  match tableWord nbits w with
  | some word =>
    match decode word with
    | .command i => some i
    | .illegal _ => none
  | none => none

end Sys2Proof
end

