-- ==== Sys2Proof/Config.lean ====
section
/-! DEFINITION. The parameters of spec/00_scope.md R10, the hardwired registers of 10_state.md R42, and the one free value. -/

namespace Sys2Proof.Config

/-- TOTAL_MAX = 2^32 - 1 (R10). -/
def totalMax : Word := 0xFFFFFFFF

/-- NIL = 511, "no node" (R10, R29). -/
def nil : Idx := 511

/-- The first internal slot (R29). -/
def firstInternal : Idx := 256

/-- STACK_DEPTH (R10, R37). -/
def stackDepth : Nat := 256

/-- MAX_CODE_LEN (R10, R121). -/
def maxCodeLen : Byte := 255

/-- TAG_INT (R10, R82). -/
def tagInt : Byte := 0x00

/-- TAG_LEAF (R10, R82). -/
def tagLeaf : Byte := 0x01

/-- The constant the ID register reads (R42). -/
def idValue : Word := 0x48554646

/-- The constant the VERSION register reads (R42). -/
def versionValue : Word := 0x00010100

/-- The free words of the model, one for each draw: what a window reads while BUSY = 1 (R58, 93 S1; log 6) and the weight
of a merge whose sum leaves 32 bits (log 7). It has no body: nothing constrains it. -/
opaque freeWord : Nat → Word

end Sys2Proof.Config
end

