-- ==== Sys2Proof/Machine/State.lean ====
section
/-! DEFINITION. Everything the spec gives the block as state (spec/10_state.md), the two streams (20_memory.md R60, R61), and the
host's side as plain data: what the host will do, how it answers OUT offers and how far the engine runs between two host
actions (logs 1 to 5). -/

namespace Sys2Proof.Machine

open Sys2Proof

/-- A register table of `n` entries, lowest index first. -/
structure Table (α : Type) (n : Nat) where
  cells : List α
  size : cells.length = n
deriving DecidableEq, Repr

/-- A table with the same value in every entry. -/
def Table.fill {α : Type} (n : Nat) (a : α) : Table α n := ⟨List.replicate n a, List.length_replicate⟩

/-- An IN token (20_memory.md R60). -/
inductive Token
  | byte (b : Byte)   -- `Byte(b)`
  | endOfPass         -- `End`
  | fail              -- `Fail`
deriving DecidableEq, Repr

/-- The sink's answer to one offered byte (20_memory.md R61). -/
inductive SinkAnswer
  | ok
  | fail
deriving DecidableEq, Repr

/-- An entry of the node RAM (10_state.md R30). -/
structure Node where
  valid : Bool
  left : Idx
  right : Idx
  freq : Word
deriving DecidableEq, Repr

/-- A cleared entry of the node RAM (R30). -/
def Node.clear : Node := ⟨false, 0, 0, 0⟩

/-- Which child an entry of ParseHeader's stack waits for (45_tree_codec.md R125). -/
inductive Side
  | left
  | right
deriving DecidableEq, Repr

/-- An entry of the traversal stack (10_state.md R37). One record serves the three commands: CODES_DERIVE uses node, len
and code (R119), TREE_SERIALIZE node (R123), ParseHeader node and side (R125); a field a command does not use is 0 or left
(log 8). -/
structure StackEntry where
  node : Idx
  len : Byte := 0
  code : Code := 0
  side : Side := .left
deriving DecidableEq, Repr

/-- The error record ERR (10_state.md R39). -/
structure ErrRecord where
  code : Byte
  opcode : Byte
  info : Byte
  cls : BitVec 3
deriving DecidableEq, Repr

/-- ERR = 0: nothing recorded (R39, R48). -/
def ErrRecord.none : ErrRecord := ⟨0, 0, 0, 0⟩

/-- The errors of 60_exceptions.md R145. -/
inductive ErrorKind
  | srcIo          -- E_SRC_IO
  | snkIo          -- E_SNK_IO
  | truncated      -- E_TRUNCATED
  | degenerate     -- E_DEGENERATE
  | badTag         -- E_BAD_TAG
  | treeTooLarge   -- E_TREE_TOO_LARGE
  | codeMiss       -- E_CODE_MISS
  | badCmd         -- E_BAD_CMD
  | noTree         -- E_NO_TREE
  | countOverflow  -- E_COUNT_OVERFLOW
deriving DecidableEq, Repr

/-- The bodies the engine runs: those of the granular commands (files 40 to 47), DECOMPRESS's conditional UNPACK
(48_composite.md R141), and the raise of an illegal word (30_encoding.md R75). -/
inductive Stage
  | nop
  | softReset
  | clearErr
  | freqClear
  | freqCount
  | heapBuild
  | treeStep
  | treeBuild
  | codesDerive
  | treeSerialize
  | treeDeserialize
  | pack
  | unpack
  | unpackUnlessEmpty
  | illegal (opcode : Byte)
deriving DecidableEq, Repr

/-- Where ParseHeader's loop stands (R125): before the first byte, before a tag with the root known, or before the value of
a leaf record. -/
inductive ParsePoint
  | first
  | tag (root : Idx)
  | value (root : Idx)
deriving DecidableEq, Repr

/-- The hidden position inside RUNNING(op) (10_state.md R22), with the local variables of the pseudocode that the rest of the body still
reads: before a body, at a ReadIn or an Emit, at ParseHeader's ROOT <- r, before the raise or before the completion (log 2). -/
inductive Pos
  | enter (c : Stage)                     -- before the first step of a body
  | count                                 -- FREQ_COUNT at ReadIn (R103)
  | serialize (pending : Option Idx) (turns : Nat)   -- TREE_SERIALIZE at Emit: of a tag, or of the value of the pending leaf
                                          -- (R123), with the bytes a header still has room for (log 13)
  | parse (p : ParsePoint)                -- ParseHeader at ReadIn (R125)
  | setRoot (r : Idx)                     -- ParseHeader at ROOT <- r, with the header complete (R125; log 2)
  | packRead                              -- PACK at ReadIn (R130)
  | packBits (b : Byte) (n : Nat)         -- PACK at the PutBit of bit n - 1 of the code of b (R130, R131)
  | packFlush                             -- PACK at the Emit of FlushPartial (R132)
  | unpackRead                            -- UNPACK at ReadIn (R134)
  | unpackEmit (b : Byte) (n : Nat)       -- UNPACK at the Emit of WalkBit, with bits n - 1 .. 0 of b still to walk (R135)
  | fail (e : ErrorKind) (info : Byte)    -- before `raise e(info)` (R150)
  | leave                                 -- the body has returned, before the completion (R93)
deriving DecidableEq, Repr

/-- The command sequencer SEQ (10_state.md R21): the opcode of the accepted command, its position, and the sub-commands of a
composite still to run (R22, 40_control.md R97). -/
inductive Seq
  | idle
  | running (op : Byte) (pos : Pos) (todo : List Stage)
deriving DecidableEq, Repr

/-- A word of the IN port: a 2-bit kind and an 8-bit data field (30_encoding.md R79). -/
structure PortWord where
  kind : BitVec 2
  data : Byte
deriving DecidableEq, Repr

/-- What the host can do (00_scope.md R8, R9): one constructor for each kind of access at the boundary. -/
inductive HostAction
  | read (a : Offset)                     -- MemRead(a, 4) (R53)
  | write (a : Offset) (v : Word)         -- MemWrite(a, 4, v) (R53)
  | feed (words : List PortWord)          -- append tokens to IN (R60, R79)
  | withdraw                              -- withdraw every unconsumed token (R60, R176)
  | answer (bits : List (BitVec 1)) (rest : Option (BitVec 1))   -- settle the answers to the coming OUT offers, and to every
                                          -- offer after them (R61, R80; log 5)
  | letRun (pace : Option Nat)            -- let the engine run: without limit, or at most so many transfers (log 3)
  | assertReset                           -- the hardware reset input goes to asserted (R166)
  | releaseReset                          -- and back (R166)
deriving DecidableEq, Repr

/-- A register of the host map (10_state.md R41), named as host programs name it (30_encoding.md R88). -/
inductive Reg
  | id | version | cmd | status | err | total | nsym | root | heapSize | nextInt | inCount | outCount | packState | walk
  | freq (v : Fin 256)
  | heap (i : Fin 256)
  | nodeLink (j : Fin 255)                -- NODE_LINK[256 + j]
  | nodeFreq (j : Fin 255)                -- NODE_FREQ[256 + j]
  | codeLen (v : Fin 256)
  | codeBits (v : Fin 256) (w : Fin 8)
deriving DecidableEq, Repr

/-- The state of the block and of its host. -/
structure State where
  /-- SEQ (R21), with the hidden position (R22). -/
  seq : Seq
  /-- STATUS.DONE (R24). -/
  done : Bool
  /-- STATUS.REJ (R25). -/
  rej : Bool
  /-- STATUS.EMPTY_ART (R26). -/
  emptyArt : Bool
  /-- STATUS.MIDWALK (R26). -/
  midwalk : Bool
  /-- ERR (R39). -/
  err : ErrRecord
  /-- FREQ[0..255] (R27). -/
  freq : Table Word 256
  /-- TOTAL (R28). -/
  total : Word
  /-- NSYM (R28). -/
  nsym : BitVec 9
  /-- NODE[256..510] (R30): entry j is slot 256 + j. -/
  node : Table Node 255
  /-- NEXT_INT (R31). -/
  nextInt : Idx
  /-- ROOT (R32). -/
  root : Idx
  /-- H[0..255] (R33). -/
  heap : Table Idx 256
  /-- HEAP_SIZE (R33). -/
  heapSize : BitVec 9
  /-- CODE_LEN[0..255] (R34). -/
  codeLen : Table Byte 256
  /-- CODE_BITS[0..255] (R34). -/
  codeBits : Table Code 256
  /-- ACC (R35). -/
  acc : Byte
  /-- ACC_N (R35). -/
  accN : BitVec 3
  /-- CUR (R36). -/
  cur : Idx
  /-- The traversal stack, top first (R37). -/
  stack : List StackEntry
  /-- IN_COUNT (R38). -/
  inCount : Word
  /-- OUT_COUNT (R38). -/
  outCount : Word
  /-- IN: the tokens appended and not yet consumed, oldest first (R60). -/
  inq : List Token
  /-- OUT: the bytes the sink has accepted, oldest first (R61). -/
  out : List Byte
  /-- The hardware reset input is asserted (70_reset_and_hazards.md R166). -/
  inReset : Bool
  /-- The model's own: the host's answers to the coming offers (R61; log 5). -/
  sink : List SinkAnswer
  /-- The model's own: its answer to every offer after those; none = it has not decided, and the offer stalls (R61; log 5). -/
  sinkRest : Option SinkAnswer
  /-- The model's own: what the host does next (log 1). -/
  host : List HostAction
  /-- The model's own: how many engine transfers happen before the next host action; none = no limit (log 3). -/
  pace : Option Nat
  /-- The model's own: the word the last MemRead returned (log 4). -/
  busData : Word
  /-- The model's own: how many free words have been drawn (logs 6, 7). -/
  draws : Nat
deriving DecidableEq, Repr

/-- The state right after reset (10_state.md R48), with nothing fed, nothing emitted and no host action pending (log 4). -/
def State.reset : State where
  seq := .idle
  done := false
  rej := false
  emptyArt := false
  midwalk := false
  err := .none
  freq := .fill 256 0
  total := 0
  nsym := 0
  node := .fill 255 .clear
  nextInt := Config.firstInternal
  root := Config.nil
  heap := .fill 256 Config.nil
  heapSize := 0
  codeLen := .fill 256 0
  codeBits := .fill 256 0
  acc := 0
  accN := 0
  cur := Config.nil
  stack := []
  inCount := 0
  outCount := 0
  inq := []
  out := []
  inReset := false
  sink := []
  sinkRest := none
  host := []
  pace := none
  busData := 0
  draws := 0

/-- Why the machine stops. Every one stands for a state that no run from reset reaches, where the pseudocode has no meaning
(log 13). All are safe: the hardware cannot be there. -/
inductive Fault
  /-- `left` or `right` of NIL or of a leaf (00_scope.md R19). Raised by CODES_DERIVE, TREE_SERIALIZE, TREE_DESERIALIZE, UNPACK
  and the composites over them. Safe. -/
  | notInternal
  /-- CODES_DERIVE visits more than the 511 positions a tree of 255 internal slots has (R50), or TREE_SERIALIZE emits more than the 767
  bytes of its header (R84). Raised by them and by COMPRESS. Safe. -/
  | notATree
  /-- A push on a full traversal stack (R37, R121). Raised by CODES_DERIVE, TREE_SERIALIZE, TREE_DESERIALIZE and the composites.
  Safe. -/
  | stackFull
  /-- ParseHeader attaches a node with no parent waiting (R125). Raised by TREE_DESERIALIZE and DECOMPRESS. Safe. -/
  | stackEmpty
  /-- A path of more than 255 edges (R121). Raised by CODES_DERIVE and COMPRESS. Safe. -/
  | codeTooLong
  /-- HEAP_SIZE above 256, or a live heap entry that is NIL (R51). Raised by TREE_STEP, TREE_BUILD and COMPRESS. Safe. -/
  | heapBroken
  /-- An allocation when NEXT_INT names no internal slot (R118). Raised by TREE_STEP, TREE_BUILD, TREE_DESERIALIZE and the composites.
  Safe. -/
  | noSlot
deriving DecidableEq, Repr

/-- Why the model gives no step. -/
inductive Refusal
  /-- An instruction with no meaning yet. Raised by exec's arm. Safe. -/
  | notModelled (mnemonic : String)
  /-- The host withdraws IN tokens while BUSY = 1, which 20_memory.md R60 and 30_encoding.md R88 forbid it (log 11). Raised by the host
  action withdraw, by no instruction. Safe. -/
  | withdrawWhileBusy
deriving DecidableEq, Repr

/-- How a body ends or pauses. -/
inductive Run
  | ret (s : State)                                       -- it returned (R93)
  | reset (s : State)                                     -- SOFT_RESET's reset, SEQ included, has ended the command (R99)
  | raised (e : ErrorKind) (info : Byte) (s : State)      -- `raise e(info)` (R17)
  | wait (pos : Pos) (todo : List Stage) (s : State)      -- it waits at pos, with the stages todo after it (R177)
  | stuck (f : Fault)                                     -- no meaning (log 13)
deriving DecidableEq, Repr

/-- How one iteration of a body's loop ends, with the loop's local variables in `x`. -/
inductive LoopStep (σ : Type)
  | more (x : σ) (s : State)
  | stop (r : Run)
deriving Repr

/-- How one Emit ends (00_scope.md R16). -/
inductive Emitted
  | accepted (s : State)   -- the sink answered OK
  | failed (s : State)     -- the sink answered FAIL
  | waiting                -- no answer yet (R177)
deriving DecidableEq, Repr

end Sys2Proof.Machine
end

