-- ==== Sys2Proof/Machine/Operands.lean ====
section
/-! DEFINITION. The implicit operands of the commands (spec/30_encoding.md R76): reading and writing the tables of 10_state.md, the
node helpers of 00_scope.md R19, and the port encodings of 30_encoding.md R79, R80. No operand field exists in a command word. -/

namespace Sys2Proof.Machine

open Sys2Proof

/-- Entry `i`. -/
def Table.get {α : Type} {n : Nat} (t : Table α n) (i : Fin n) : α :=
  t.cells[i.val]'(by rw [t.size]; exact i.isLt)

/-- The table with entry `i` replaced. -/
def Table.set {α : Type} {n : Nat} (t : Table α n) (i : Fin n) (a : α) : Table α n :=
  ⟨t.cells.set i.val a, by rw [List.length_set]; exact t.size⟩

/-- The symbols 0..255 in ascending order. -/
def symbols : List Byte := (List.range 256).map (BitVec.ofNat 8)

/-- A symbol as a table index. -/
def symIndex (v : Byte) : Fin 256 := ⟨v.toNat, v.isLt⟩

/-- The leaf slot of a symbol (R29). -/
def leafSlot (v : Byte) : Idx := v.setWidth 9

/-- The byte value a leaf slot represents (R29). -/
def leafValue (n : Idx) : Byte := n.setWidth 8

/-- `isLeaf(n)` (R19). -/
def isLeaf (n : Idx) : Bool := n.toNat ≤ 255

/-- The entry of the node RAM that holds internal slot n = 256..510; none for a leaf slot and for NIL (R29, R30). -/
def slot? (n : Idx) : Option (Fin 255) :=
  if h : 256 ≤ n.toNat ∧ n.toNat < 511 then some ⟨n.toNat - 256, by omega⟩ else none

/-- FREQ[v] (R27). -/
def State.freqOf (s : State) (v : Byte) : Word := s.freq.get (symIndex v)

/-- CODE_LEN[v] (R34). -/
def State.codeLenOf (s : State) (v : Byte) : Byte := s.codeLen.get (symIndex v)

/-- CODE_BITS[v] (R34). -/
def State.codeBitsOf (s : State) (v : Byte) : Code := s.codeBits.get (symIndex v)

/-- FREQ[v] <- f. -/
def State.setFreq (s : State) (v : Byte) (f : Word) : State := { s with freq := s.freq.set (symIndex v) f }

/-- CODE_LEN[v] <- len; CODE_BITS[v] <- c. -/
def State.setCode (s : State) (v : Byte) (len : Byte) (c : Code) : State :=
  { s with codeLen := s.codeLen.set (symIndex v) len, codeBits := s.codeBits.set (symIndex v) c }

/-- H[i], and NIL beyond the array (R33). -/
def State.heapAt (s : State) (i : Nat) : Idx :=
  if h : i < 256 then s.heap.get ⟨i, h⟩ else Config.nil

/-- H[i] <- n. -/
def State.setHeap (s : State) (i : Nat) (n : Idx) : State :=
  if h : i < 256 then { s with heap := s.heap.set ⟨i, h⟩ n } else s

/-- `freq(n)` (R19): FREQ[n] for a leaf, NODE[n].freq for an internal node. It is applied only to n != NIL (R19; log 13). -/
def State.weight (s : State) (n : Idx) : Word :=
  match slot? n with
  | some j => (s.node.get j).freq
  | none => s.freqOf (leafValue n)

/-- `left(n)` and `right(n)` (R19): only an internal slot has children. -/
def State.child (s : State) (side : Side) (n : Idx) : Except Fault Idx :=
  match slot? n with
  | some j =>
    match side with
    | .left => .ok (s.node.get j).left
    | .right => .ok (s.node.get j).right
  | none => .error .notInternal

/-- NODE[n] <- nd, for an internal slot n. -/
def State.setNode (s : State) (n : Idx) (nd : Node) : Except Fault State :=
  match slot? n with
  | some j => .ok { s with node := s.node.set j nd }
  | none => .error .noSlot

/-- NODE[n].side <- c, for an internal slot n. -/
def State.setChild (s : State) (side : Side) (n c : Idx) : Except Fault State :=
  match slot? n with
  | some j =>
    match side with
    | .left => .ok { s with node := s.node.set j { s.node.get j with left := c } }
    | .right => .ok { s with node := s.node.set j { s.node.get j with right := c } }
  | none => .error .notInternal

/-- The token a word of the IN port carries (30_encoding.md R79): the reserved kind 0b11 reads as `Fail`. -/
def Token.ofPort (w : PortWord) : Token :=
  if w.kind = 0b00 then .byte w.data
  else if w.kind = 0b01 then .endOfPass
  else .fail

/-- A port word that carries a token (R79). -/
def Token.toPort : Token → PortWord
  | .byte b => ⟨0b00, b⟩
  | .endOfPass => ⟨0b01, 0⟩
  | .fail => ⟨0b10, 0⟩

/-- The sink's response bit: 0 = `OK`, 1 = `FAIL` (R80). -/
def SinkAnswer.ofPort (bit : BitVec 1) : SinkAnswer := if bit = 0 then .ok else .fail

end Sys2Proof.Machine
end

