-- ==== Sys2Proof/Machine/Flags.lean ====
section
/-! DEFINITION. The status bits and the error record (spec/10_state.md R23 to R26, R39; 60_exceptions.md R144, R145). -/

namespace Sys2Proof.Machine

open Sys2Proof

/-- STATUS.BUSY: 1 while SEQ = RUNNING(op) (R23). -/
def State.busy (s : State) : Bool :=
  match s.seq with
  | .idle => false
  | .running _ _ _ => true

/-- STATUS.ERR: 1 exactly when ERR.CODE is nonzero (R25). -/
def State.errSet (s : State) : Bool := s.err.code != 0

/-- STATUS.TREE_VALID: 1 exactly when ROOT != NIL; computed, not stored (R26). -/
def State.treeValid (s : State) : Bool := s.root != Config.nil

/-- A status bit at its place in the STATUS word. -/
def bitAt (i : Nat) (b : Bool) : Word := if b then BitVec.twoPow 32 i else 0

/-- The STATUS register (R23). -/
def State.statusWord (s : State) : Word :=
  bitAt 0 s.busy ||| bitAt 1 s.done ||| bitAt 2 s.errSet ||| bitAt 3 s.rej ||| bitAt 4 s.treeValid |||
    bitAt 5 s.emptyArt ||| bitAt 6 s.midwalk

/-- A host write to STATUS: W1C on DONE (bit 1) and REJ (bit 3), every other bit ignored (40_control.md R96). -/
def State.writeStatus (s : State) (v : Word) : State :=
  { s with done := s.done && !v.getLsbD 1, rej := s.rej && !v.getLsbD 3 }

/-- The ERR register: CODE [7:0], OPCODE [15:8], INFO [23:16], CLASS [26:24] (R39). -/
def ErrRecord.word (e : ErrRecord) : Word :=
  (e.cls.setWidth 32 <<< 24) ||| (e.info.setWidth 32 <<< 16) ||| (e.opcode.setWidth 32 <<< 8) ||| e.code.setWidth 32

/-- ERR.CODE of an error (R145). -/
def ErrorKind.code : ErrorKind → Byte
  | .srcIo => 0x01
  | .snkIo => 0x02
  | .truncated => 0x10
  | .degenerate => 0x11
  | .badTag => 0x12
  | .treeTooLarge => 0x13
  | .codeMiss => 0x20
  | .badCmd => 0x30
  | .noTree => 0x31
  | .countOverflow => 0x32

/-- ERR.CLASS of an error (R144, R145): 1 I/O, 2 format, 3 internal consistency, 4 usage. -/
def ErrorKind.cls : ErrorKind → BitVec 3
  | .srcIo | .snkIo => 1
  | .truncated | .degenerate | .badTag | .treeTooLarge => 2
  | .codeMiss => 3
  | .badCmd | .noTree | .countOverflow => 4

end Sys2Proof.Machine
end

