-- ==== Sys2Proof/Machine/Ops.lean ====
section
/-! DEFINITION. The operations the commands share: ReadIn, Emit and the traversal stack (spec/00_scope.md R15, R16; 10_state.md R37), the
lifecycle of a command (40_control.md R91 to R97), taking an error and the ways out of one (60_exceptions.md R150, R154), and reset
(70_reset_and_hazards.md R166 to R168). -/

namespace Sys2Proof.Machine

open Sys2Proof

/-! ### The host's pace (log 3) -/

/-- The engine is held: the next host action lands before its next transfer. -/
def State.held (s : State) : Bool := s.pace == some 0

/-- One transfer of the engine against the pace. -/
def State.tick (s : State) : State := { s with pace := s.pace.map (· - 1) }

/-! ### The streams -/

/-- What `ReadIn` does when it returns `t` and leaves `ts` in IN (R15): only a `Byte` counts. -/
def State.consume (s : State) (t : Token) (ts : List Token) : State :=
  match t with
  | .byte _ => { s.tick with inq := ts, inCount := s.inCount + 1 }
  | .endOfPass => { s.tick with inq := ts }
  | .fail => { s.tick with inq := ts }

/-- A loop that reads one token an iteration. It waits at `pos x` when IN is empty or the engine is held (R177). It is called
with IN itself, `s.inq`. -/
def overTokens {σ : Type} (pos : σ → Pos) (body : σ → Token → State → LoopStep σ) : List Token → σ → State → Run
  | [], x, s => .wait (pos x) [] s
  | t :: ts, x, s =>
    if s.held then .wait (pos x) [] s
    else
      match body x t (s.consume t ts) with
      | .more x' s' => overTokens pos body ts x' s'
      | .stop r => r

/-- The sink's answer to the next offer, and the queue after it (R61; log 5). -/
def State.nextAnswer (s : State) : Option (SinkAnswer × List SinkAnswer) :=
  match s.sink with
  | a :: later => some (a, later)
  | [] => s.sinkRest.map (fun a => (a, []))

/-- `Emit(b)` (R16): offer the byte and take the sink's answer. It waits while there is no answer (R177). -/
def State.emit (s : State) (b : Byte) : Emitted :=
  if s.held then .waiting
  else
    match s.nextAnswer with
    | none => .waiting
    | some (.ok, later) => .accepted { s.tick with sink := later, out := s.out ++ [b], outCount := s.outCount + 1 }
    | some (.fail, later) => .failed { s.tick with sink := later }

/-! ### The traversal stack -/

/-- Push (R37): 256 entries. -/
def State.push (s : State) (e : StackEntry) : Except Fault State :=
  if s.stack.length < Config.stackDepth then .ok { s with stack := e :: s.stack } else .error .stackFull

/-! ### Node allocation -/

/-- The next internal slot, NEXT_INT, written with `nd`; NEXT_INT <- NEXT_INT + 1 (R31). -/
def State.alloc (s : State) (nd : Node) : Except Fault State :=
  match s.setNode s.nextInt nd with
  | .ok s' => .ok { s' with nextInt := s.nextInt + 1 }
  | .error f => .error f

/-- Discard any tree and empty the heap: the opening of HEAP_BUILD (R111) and of TREE_DESERIALIZE (R124). -/
def State.discardTree (s : State) : State :=
  { s with
    node := .fill 255 .clear
    nextInt := Config.firstInternal
    root := Config.nil
    heap := .fill 256 Config.nil
    heapSize := 0 }

/-! ### Reset -/

/-- Every state element of 10_state.md R48 at its reset value. The streams (R168), the level of the reset input and the host's own side stay
(log 10). -/
def State.toReset (s : State) : State :=
  { State.reset with
    inq := s.inq
    out := s.out
    inReset := s.inReset
    sink := s.sink
    sinkRest := s.sinkRest
    host := s.host
    pace := s.pace
    busData := s.busData
    draws := s.draws }

/-- SOFT_RESET's effect: every state element to reset, then DONE <- 1 (40_control.md R99). -/
def State.softReset (s : State) : State := { s.toReset with done := true }

/-! ### The lifecycle of a command -/

/-- Accepting a word (R92): SEQ <- RUNNING(op), DONE, EMPTY_ART, MIDWALK, IN_COUNT and OUT_COUNT cleared. -/
def State.accept (s : State) (op : Byte) (pos : Pos) (todo : List Stage) : State :=
  { s with
    seq := .running op pos todo
    done := false
    emptyArt := false
    midwalk := false
    inCount := 0
    outCount := 0 }

/-- Dropping a CMD write (R91): only REJ <- 1. -/
def State.reject (s : State) : State := { s with rej := true }

/-- Completion (R93). -/
def State.complete (s : State) : State := { s with seq := .idle, done := true }

/-- TAKING AN ERROR, `raise e(info)` while SEQ = RUNNING(op) (60_exceptions.md R150). Nothing is rolled back (R151). -/
def State.raiseError (s : State) (op : Byte) (e : ErrorKind) (info : Byte) : State :=
  { s with err := ⟨e.code, op, info, e.cls⟩, seq := .idle }

/-- THE WAY BACK from an error that keeps all other state: ERR <- 0 (60_exceptions.md R154, 40_control.md R100). The other ways are the
resets above. -/
def State.clearError (s : State) : State := { s with err := .none }

/-- What becomes of the state when the body of the command with opcode `op` returns, raises or waits (R93, R97, R150). The completion and
the raise are transfers of their own: a held engine waits before them (log 2). SOFT_RESET's reset sets SEQ itself (R99). -/
def settle (op : Byte) : Run → Host.Outcome State Fault Refusal
  | .ret s => .next (if s.held then { s with seq := .running op .leave [] } else s.tick.complete)
  | .raised e info s =>
    .next (if s.held then { s with seq := .running op (.fail e info) [] } else s.tick.raiseError op e info)
  | .reset s => .next s
  | .wait pos todo s => .next { s with seq := .running op pos todo }
  | .stuck f => .fault f

/-- An accepted command: R92, then its body unless the engine is held before the first step (log 2). `first` and `todo` say what a
held command resumes with. -/
def launch (op : Byte) (first : Stage) (todo : List Stage) (body : State → Run) (s : State) : Host.Outcome State Fault Refusal :=
  let a := s.accept op (.enter first) todo
  settle op (if a.held then .wait (.enter first) todo a else body a.tick)

/-- A CMD write of a word other than SOFT_RESET and CLEAR_ERR (R91, R94, R95): dropped while BUSY = 1 or ERR = 1, else accepted. -/
def command (op : Byte) (first : Stage) (todo : List Stage) (body : State → Run) (s : State) : Host.Outcome State Fault Refusal :=
  if s.busy || s.errSet then .next s.reject else launch op first todo body s

/-- An `Except` of the tree operations as the end of a body. -/
def Run.ofExcept : Except Fault State → Run
  | .ok s => .ret s
  | .error f => .stuck f

end Sys2Proof.Machine
end

