-- ==== Sys2Proof/Machine/Codes.lean ====
section
/-! DEFINITION. Code table derivation (spec/44_code_table.md). -/

namespace Sys2Proof.Machine

open Sys2Proof

/-- One visit of the walk: the entry `e` has been popped (R119). At a leaf, the first visit wins (R120); at an internal node the right
child is pushed below the left one. -/
def State.deriveVisit (s : State) (e : StackEntry) : Except Fault State :=
  if isLeaf e.node then
    let v := leafValue e.node
    .ok (if s.codeLenOf v = 0 then s.setCode v e.len e.code else s)
  else
    match s.child .left e.node, s.child .right e.node with
    | .ok l, .ok r =>
      if e.len = Config.maxCodeLen then .error .codeTooLong
      else
        match s.push { node := r, len := e.len + 1, code := 2 * e.code + 1 } with
        | .ok s' => s'.push { node := l, len := e.len + 1, code := 2 * e.code }
        | .error f => .error f
    | .error f, _ => .error f
    | _, .error f => .error f

/-- The walk's loop (R119), for at most `visits` visits. -/
def deriveLoop : Nat → State → Except Fault State
  | visits, s =>
    match s.stack with
    | [] => .ok s
    | e :: rest =>
      match visits with
      | 0 => .error .notATree
      | visits + 1 =>
        match State.deriveVisit { s with stack := rest } e with
        | .ok s' => deriveLoop visits s'
        | .error f => .error f

/-- The positions of the largest tree: 255 internal slots and 256 leaf positions (R50, R84). -/
def treePositions : Nat := 511

/-- CODES_DERIVE's effect (R119). -/
def State.deriveCodes (s : State) : Except Fault State :=
  let s1 := { s with codeLen := .fill 256 0, codeBits := .fill 256 0, stack := [] }
  if s1.root = Config.nil then .ok s1
  else deriveLoop treePositions { s1 with stack := [{ node := s1.root }] }

/-- CODES_DERIVE's body (R119). -/
def codesDeriveBody (s : State) : Run := .ofExcept s.deriveCodes

/-- CODES_DERIVE (R119). -/
def execCodesDerive (s : State) : Host.Outcome State Fault Refusal :=
  command (opcodeOf .codesDerive) .codesDerive [] codesDeriveBody s

end Sys2Proof.Machine
end

