-- ==== Sys2Proof/Machine/Control.lean ====
section
/-! DEFINITION. The control commands (spec/40_control.md R98 to R100) and the illegal word (30_encoding.md R75). -/

namespace Sys2Proof.Machine

open Sys2Proof

/-- NOP's body: `return` (R98). -/
def nopBody (s : State) : Run := .ret s

/-- NOP (R98). -/
def execNop (s : State) : Host.Outcome State Fault Refusal :=
  command (opcodeOf .nop) .nop [] nopBody s

/-- SOFT_RESET's body (R99): one event, which sets SEQ and DONE too. -/
def softResetBody (s : State) : Run := .reset s.softReset

/-- SOFT_RESET (R99): while BUSY it aborts the running command and is performed at once (R94); idle, it is accepted whatever ERR is
(R95). -/
def execSoftReset (s : State) : Host.Outcome State Fault Refusal :=
  if s.busy then .next s.softReset else launch (opcodeOf .softReset) .softReset [] softResetBody s

/-- CLEAR_ERR's body (R100). -/
def clearErrBody (s : State) : Run := .ret s.clearError

/-- CLEAR_ERR (R100): dropped while BUSY (R94), accepted while ERR = 1 (R95). -/
def execClearErr (s : State) : Host.Outcome State Fault Refusal :=
  if s.busy then .next s.reject else launch (opcodeOf .clearErr) .clearErr [] clearErrBody s

/-- The body of an accepted word that is no command: E_BAD_CMD(w[7:0]) right after acceptance (30_encoding.md R75, R150). -/
def illegalBody (opcode : Byte) (s : State) : Run := .raised .badCmd opcode s

/-- A CMD write of a word that is no command (R75, R77): offered as any other word (R91). -/
def offerIllegal (w : Word) (s : State) : Host.Outcome State Fault Refusal :=
  command (opcodeField w) (.illegal (opcodeField w)) [] (illegalBody (opcodeField w)) s

end Sys2Proof.Machine
end

