-- ==== Sys2Proof/Machine/Frequency.lean ====
section
/-! DEFINITION. The frequency counter (spec/41_frequency.md). -/

namespace Sys2Proof.Machine

open Sys2Proof

/-- FREQ_CLEAR's effect (R102). -/
def State.clearFreq (s : State) : State := { s with freq := .fill 256 0, total := 0, nsym := 0 }

/-- FREQ_CLEAR's body (R102). -/
def freqClearBody (s : State) : Run := .ret s.clearFreq

/-- FREQ_CLEAR (R102). -/
def execFreqClear (s : State) : Host.Outcome State Fault Refusal :=
  command (opcodeOf .freqClear) .freqClear [] freqClearBody s

/-- Counting one byte below TOTAL_MAX (R103). -/
def State.countByte (s : State) (b : Byte) : State :=
  { s.setFreq b (s.freqOf b + 1) with
    nsym := if s.freqOf b = 0 then s.nsym + 1 else s.nsym
    total := s.total + 1 }

/-- One iteration of FREQ_COUNT's loop (R103). -/
def countToken (_ : Unit) (t : Token) (s : State) : LoopStep Unit :=
  match t with
  | .fail => .stop (.raised .srcIo 0 s)
  | .endOfPass => .stop (.ret s)
  | .byte b => if s.total = Config.totalMax then .stop (.raised .countOverflow b s) else .more () (s.countByte b)

/-- FREQ_COUNT's loop (R103). -/
def countLoop (s : State) : Run := overTokens (fun _ => .count) countToken s.inq () s

/-- FREQ_COUNT's body (R103). -/
def freqCountBody (s : State) : Run := countLoop s

/-- FREQ_COUNT (R103). -/
def execFreqCount (s : State) : Host.Outcome State Fault Refusal :=
  command (opcodeOf .freqCount) .freqCount [] freqCountBody s

end Sys2Proof.Machine
end

