-- ==== Sys2Proof/Machine/Packer.lean ====
section
/-! DEFINITION. The bit packer (spec/46_bit_packer.md). -/

namespace Sys2Proof.Machine

open Sys2Proof

/-- A bit as a byte. -/
def bitByte (x : Bool) : Byte := if x then 1 else 0

/-- ACC <- 0; ACC_N <- 0. -/
def State.clearAcc (s : State) : State := { s with acc := 0, accN := 0 }

/-- `PutBit(x)` (R131). -/
def State.putBit (s : State) (x : Bool) : Emitted :=
  if s.accN = 7 then
    match s.emit (2 * s.acc + bitByte x) with
    | .accepted s' => .accepted s'.clearAcc
    | .failed s' => .failed s'
    | .waiting => .waiting
  else .accepted { s with acc := 2 * s.acc + bitByte x, accN := s.accN + 1 }

/-- `for i = n - 1 downto 0: PutBit(CODE_BITS[b][i])` (R130). -/
def putBits (b : Byte) : Nat → State → LoopStep Unit
  | 0, s => .more () s
  | n + 1, s =>
    match s.putBit ((s.codeBitsOf b).getLsbD n) with
    | .accepted s' => putBits b n s'
    | .failed s' => .stop (.raised .snkIo 0 s')
    | .waiting => .stop (.wait (.packBits b (n + 1)) [] s)

/-- `FlushPartial()` (R132), and the return after it (R130). -/
def flushPartial (s : State) : Run :=
  if s.accN = 0 then .ret s
  else
    match s.emit (s.acc <<< (8 - s.accN.toNat)) with
    | .accepted s' => .ret s'.clearAcc
    | .failed s' => .raised .snkIo 0 s'
    | .waiting => .wait .packFlush [] s

/-- One token of PACK's loop (R130, R133). -/
def packToken (_ : Unit) (t : Token) (s : State) : LoopStep Unit :=
  match t with
  | .fail => .stop (.raised .srcIo 0 s)
  | .endOfPass => .stop (flushPartial s)
  | .byte b =>
    if s.codeLenOf b = 0 then .stop (.raised .codeMiss b s) else putBits b (s.codeLenOf b).toNat s

/-- PACK's loop (R130). -/
def packLoop (s : State) : Run := overTokens (fun _ => .packRead) packToken s.inq () s

/-- PACK from the PutBit of bit n - 1 of the code of b (R130). -/
def packFromBits (b : Byte) (n : Nat) (s : State) : Run :=
  match putBits b n s with
  | .more _ s' => packLoop s'
  | .stop r => r

/-- PACK's body (R130). -/
def packBody (s : State) : Run := packLoop s.clearAcc

/-- PACK (R130). -/
def execPack (s : State) : Host.Outcome State Fault Refusal :=
  command (opcodeOf .pack) .pack [] packBody s

end Sys2Proof.Machine
end

