-- ==== Sys2Proof/Machine/Heap.lean ====
section
/-! DEFINITION. The priority queue (spec/42_heap.md). -/

namespace Sys2Proof.Machine

open Sys2Proof

/-- The heap order `Less(a, b)` (R105): by weight, then by node index. -/
def State.less (s : State) (a b : Idx) : Bool :=
  decide (s.weight a < s.weight b) || (s.weight a == s.weight b && decide (a < b))

/-- HEAP_SIZE as a number. -/
def State.live (s : State) : Nat := s.heapSize.toNat

/-- swap H[i] and H[j]. -/
def State.swapHeap (s : State) (i j : Nat) : State := (s.setHeap i (s.heapAt j)).setHeap j (s.heapAt i)

/-- The position SiftDown moves to from i: the least of i and its live children (R107). -/
def State.leastChild (s : State) (i : Nat) : Nat :=
  let l := 2 * i + 1
  let r := 2 * i + 2
  let m := if l < s.live && s.less (s.heapAt l) (s.heapAt i) then l else i
  if r < s.live && s.less (s.heapAt r) (s.heapAt m) then r else m

/-- `SiftDown(i)` (R107). The position grows at every turn and stays below HEAP_SIZE, so HEAP_SIZE turns are enough. -/
def siftDownLoop : Nat → Nat → State → State
  | 0, _, s => s
  | turns + 1, i, s =>
    let m := s.leastChild i
    if m = i then s else siftDownLoop turns m (s.swapHeap i m)

/-- `SiftDown(i)` (R107). -/
def State.siftDown (s : State) (i : Nat) : State := siftDownLoop s.live i s

/-- `SiftUp(i)` (R108). The position falls at every turn, so i turns are enough. -/
def siftUpLoop : Nat → Nat → State → State
  | 0, _, s => s
  | turns + 1, i, s =>
    let p := (i - 1) / 2
    if i = 0 then s
    else if s.less (s.heapAt i) (s.heapAt p) then siftUpLoop turns p (s.swapHeap i p) else s

/-- `SiftUp(i)` (R108). -/
def State.siftUp (s : State) (i : Nat) : State := siftUpLoop i i s

/-- HEAP_SIZE <- n. -/
def State.setLive (s : State) (n : Nat) : State := { s with heapSize := BitVec.ofNat 9 n }

/-- `ExtractMin()` (R109): the entry and the state after it. Its callers guarantee HEAP_SIZE >= 1. -/
def State.extractMin (s : State) : Idx × State :=
  let x := s.heapAt 0
  let n := s.live - 1
  let s1 := s.setLive n
  let s2 := if n > 0 then s1.setHeap 0 (s1.heapAt n) else s1
  let s3 := s2.setHeap n Config.nil
  (x, if n > 0 then s3.siftDown 0 else s3)

/-- `Insert(n)` (R110). Its callers guarantee HEAP_SIZE < 256. -/
def State.insert (s : State) (n : Idx) : State :=
  let i := s.live
  ((s.setHeap i n).setLive (i + 1)).siftUp i

/-- The symbols with a nonzero count, ascending (R111). -/
def State.usedSymbols (s : State) : List Byte :=
  ((symbols.zip s.freq.cells).filter (fun p => p.2 != 0)).map (·.1)

/-- H[HEAP_SIZE] <- v; HEAP_SIZE <- HEAP_SIZE + 1: HEAP_BUILD's loading of one symbol (R111). -/
def State.appendLeaf (s : State) (v : Byte) : State := (s.setHeap s.live (leafSlot v)).setLive (s.live + 1)

/-- `for i = n - 1 downto 0: SiftDown(i)` (R111). -/
def heapify : Nat → State → State
  | 0, s => s
  | n + 1, s => heapify n (s.siftDown n)

/-- HEAP_BUILD's effect (R111): discard the tree, load the used symbols, Floyd build. -/
def State.buildHeap (s : State) : State :=
  let t := s.usedSymbols.foldl State.appendLeaf s.discardTree
  heapify (t.live / 2) t

/-- HEAP_BUILD's body (R111). -/
def heapBuildBody (s : State) : Run := .ret s.buildHeap

/-- HEAP_BUILD (R111). -/
def execHeapBuild (s : State) : Host.Outcome State Fault Refusal :=
  command (opcodeOf .heapBuild) .heapBuild [] heapBuildBody s

end Sys2Proof.Machine
end

