-- ==== Sys2Proof/Machine/Tree.lean ====
section
/-! DEFINITION. The tree builder (spec/43_tree_builder.md). -/

namespace Sys2Proof.Machine

open Sys2Proof

/-- The heap can be merged: HEAP_SIZE <= 256 and no live entry is NIL, so that `freq` and `Less` are applied only to nodes (R19,
R51). Every reachable state meets it (log 13). -/
def State.heapUsable (s : State) : Bool :=
  decide (s.live ≤ 256) && (s.heap.cells.take s.live).all (fun n => n != Config.nil)

/-- The weight of a merged node and the state after it: freq(a) + freq(b) (R113). R104 and R113 say the sum never leaves 32 bits; where the
host rewrote FREQ between HEAP_BUILD and the merge it can, and the spec then states no weight: a free word is drawn (log 7). -/
def State.mergedWeight (s : State) (a b : Idx) : Word × State :=
  if (s.weight a).toNat + (s.weight b).toNat < 2 ^ 32 then (s.weight a + s.weight b, s)
  else (Config.freeWord s.draws, { s with draws := s.draws + 1 })

/-- `Merge()` (R113). Its callers guarantee HEAP_SIZE >= 2. -/
def State.merge (s : State) : Except Fault State :=
  let (a, s1) := s.extractMin
  let (b, s2) := s1.extractMin
  let (w, s3) := s2.mergedWeight a b
  match s3.alloc ⟨true, a, b, w⟩ with
  | .ok s4 => .ok (s4.insert s3.nextInt)
  | .error f => .error f

/-- TREE_STEP's effect (R114). -/
def State.treeStep (s : State) : Except Fault State :=
  if s.live < 2 then .ok s
  else if s.heapUsable then s.merge
  else .error .heapBroken

/-- TREE_STEP's body (R114). -/
def treeStepBody (s : State) : Run := .ofExcept s.treeStep

/-- TREE_STEP (R114). -/
def execTreeStep (s : State) : Host.Outcome State Fault Refusal :=
  command (opcodeOf .treeStep) .treeStep [] treeStepBody s

/-- `while HEAP_SIZE > 1: Merge()` (R115). Each merge lowers HEAP_SIZE by 1 (R112), so HEAP_SIZE turns are enough. -/
def mergeAll : Nat → State → Except Fault State
  | 0, s => .ok s
  | turns + 1, s =>
    if s.live > 1 then
      match s.merge with
      | .ok s' => mergeAll turns s'
      | .error f => .error f
    else .ok s

/-- `Synthesize(v)` (R116), followed by ROOT <- k. -/
def State.synthesize (s : State) (v : Idx) : Except Fault State :=
  match s.alloc ⟨true, v, v, s.weight v⟩ with
  | .ok s' => .ok { s'.setHeap 0 s.nextInt with root := s.nextInt }
  | .error f => .error f

/-- TREE_BUILD's last part, with HEAP_SIZE <= 1 (R115 to R117). -/
def State.finalizeTree (s : State) : Except Fault State :=
  if s.live = 0 then .ok { s with root := Config.nil }
  else if isLeaf (s.heapAt 0) then s.synthesize (s.heapAt 0)
  else .ok { s with root := s.heapAt 0 }

/-- TREE_BUILD's effect (R115). -/
def State.treeBuild (s : State) : Except Fault State :=
  if s.heapUsable then
    match mergeAll s.live s with
    | .ok s' => s'.finalizeTree
    | .error f => .error f
  else .error .heapBroken

/-- TREE_BUILD's body (R115). -/
def treeBuildBody (s : State) : Run := .ofExcept s.treeBuild

/-- TREE_BUILD (R115). -/
def execTreeBuild (s : State) : Host.Outcome State Fault Refusal :=
  command (opcodeOf .treeBuild) .treeBuild [] treeBuildBody s

end Sys2Proof.Machine
end

