-- ==== Sys2Proof/Machine/TreeCodec.lean ====
section
/-! DEFINITION. The tree serializer and deserializer (spec/45_tree_codec.md). -/

namespace Sys2Proof.Machine

open Sys2Proof

/-! ### Serializer (R123) -/

/-- The byte TREE_SERIALIZE offers next: the value of a leaf whose TAG_LEAF is out, or the tag of the node on top of the stack; none when
the stack is empty. -/
def State.serialByte (s : State) : Option Idx → Option Byte
  | some n => some (leafValue n)
  | none =>
    match s.stack with
    | [] => none
    | e :: _ => some (if isLeaf e.node then Config.tagLeaf else Config.tagInt)

/-- What follows that byte once the sink has accepted it: the leaf whose value comes next, and the stack (R123). -/
def State.serialNext (s : State) : Option Idx → Except Fault (Option Idx × State)
  | some _ => .ok (none, s)
  | none =>
    match s.stack with
    | [] => .ok (none, s)
    | e :: rest =>
      if isLeaf e.node then .ok (some e.node, { s with stack := rest })
      else
        match s.child .left e.node, s.child .right e.node with
        | .ok l, .ok r =>
          match State.push { s with stack := rest } { node := r } with
          | .ok s1 =>
            match s1.push { node := l } with
            | .ok s2 => .ok (none, s2)
            | .error f => .error f
          | .error f => .error f
        | .error f, _ => .error f
        | _, .error f => .error f

/-- TREE_SERIALIZE's loop (R123): each turn emits one byte. More bytes than the longest header has are no tree (log 13). -/
def serialLoop : Nat → Option Idx → State → Run
  | turns, pending, s =>
    match s.serialByte pending with
    | none => .ret s
    | some b =>
      match turns with
      | 0 => .stuck .notATree
      | turns + 1 =>
        match s.emit b with
        | .waiting => .wait (.serialize pending (turns + 1)) [] s
        | .failed s' => .raised .snkIo 0 s'
        | .accepted s' =>
          match s'.serialNext pending with
          | .ok (pending', s'') => serialLoop turns pending' s''
          | .error f => .stuck f

/-- The bytes of the longest header: 256 leaf positions and 255 internal nodes (30_encoding.md R84). -/
def headerBytes : Nat := 767

/-- TREE_SERIALIZE's body (R123): with no tree it emits nothing. -/
def treeSerializeBody (s : State) : Run :=
  if s.root = Config.nil then .ret s
  else serialLoop headerBytes none { s with stack := [{ node := s.root }] }

/-- TREE_SERIALIZE (R123). -/
def execTreeSerialize (s : State) : Host.Outcome State Fault Refusal :=
  command (opcodeOf .treeSerialize) .treeSerialize [] treeSerializeBody s

/-! ### Deserializer (R124 to R127) -/

/-- Hang node n under the internal node on top of the stack, in the child it waits for (R125). -/
def State.attach (s : State) (n : Idx) : Except Fault State :=
  match s.stack with
  | [] => .error .stackEmpty
  | e :: rest =>
    match e.side with
    | .left => State.setChild { s with stack := { e with side := .right } :: rest } .left e.node n
    | .right => State.setChild { s with stack := rest } .right e.node n

/-- ParseHeader's success (R125): ROOT <- r. A host can see the last header byte counted and ROOT still NIL, so a held engine waits here
(10_state.md R22; log 2). -/
def finishHeader (r : Idx) (s : State) : Run :=
  if s.held then .wait (.setRoot r) [] s else .ret { s.tick with root := r }

/-- The end of an iteration of ParseHeader (R125), with root r: an internal n waits for its left child; an empty stack is success. -/
def parseEnd (r n : Idx) (s : State) : LoopStep ParsePoint :=
  if isLeaf n then
    match s.stack with
    | [] => .stop (finishHeader r s)
    | _ :: _ => .more (.tag r) s
  else
    match s.push { node := n, side := .left } with
    | .ok s' => .more (.tag r) s'
    | .error f => .stop (.stuck f)

/-- A complete node n of the header: it becomes the root or hangs under its parent (R125). -/
def parseNode (p : ParsePoint) (n : Idx) (s : State) : LoopStep ParsePoint :=
  match p with
  | .first => parseEnd n n s
  | .tag r | .value r =>
    match s.attach n with
    | .ok s' => parseEnd r n s'
    | .error f => .stop (.stuck f)

/-- TAG_INT (R125): a 256th internal node is too large; else the next slot is given out. -/
def parseInternal (p : ParsePoint) (s : State) : LoopStep ParsePoint :=
  if s.nextInt = Config.nil then .stop (.raised .treeTooLarge 0 s)
  else
    match s.alloc ⟨true, Config.nil, Config.nil, 0⟩ with
    | .ok s' => parseNode p s.nextInt s'
    | .error f => .stop (.stuck f)

/-- A byte where a tag is expected (R125, R127). -/
def parseTag (p : ParsePoint) (tag : Byte) (s : State) : LoopStep ParsePoint :=
  if tag = Config.tagInt then parseInternal p s
  else if tag = Config.tagLeaf then
    match p with
    | .first => .stop (.raised .degenerate 0 s)
    | .tag r | .value r => .more (.value r) s
  else .stop (.raised .badTag tag s)

/-- One token of ParseHeader (R125): `Fail` first, then `End` (R127), which before the first byte is the empty artifact (R126). -/
def parseToken (p : ParsePoint) (t : Token) (s : State) : LoopStep ParsePoint :=
  match t with
  | .fail => .stop (.raised .srcIo 0 s)
  | .endOfPass =>
    match p with
    | .first => .stop (.ret { s with emptyArt := true })
    | .tag _ | .value _ => .stop (.raised .truncated 0 s)
  | .byte b =>
    match p with
    | .first | .tag _ => parseTag p b s
    | .value r => parseNode (.value r) (leafSlot b) s

/-- `ParseHeader()` from point p (R125). -/
def parseLoop (p : ParsePoint) (s : State) : Run := overTokens Pos.parse parseToken s.inq p s

/-- TREE_DESERIALIZE's body (R124). -/
def treeDeserializeBody (s : State) : Run := parseLoop .first { s.discardTree with stack := [] }

/-- TREE_DESERIALIZE (R124). -/
def execTreeDeserialize (s : State) : Host.Outcome State Fault Refusal :=
  command (opcodeOf .treeDeserialize) .treeDeserialize [] treeDeserializeBody s

end Sys2Proof.Machine
end

