-- ==== Sys2Proof/Machine/Unpacker.lean ====
section
/-! DEFINITION. The bit unpacker (spec/47_bit_unpacker.md). -/

namespace Sys2Proof.Machine

open Sys2Proof

/-- The edge of a payload bit: 0 left, 1 right (R135). -/
def edge (x : Bool) : Side := if x then .right else .left

/-- The end of WalkBit at a leaf (R135): Emit(CUR), then CUR <- ROOT. -/
def State.emitLeaf (s : State) : Emitted :=
  match s.emit (leafValue s.cur) with
  | .accepted s' => .accepted { s' with cur := s.root }
  | .failed s' => .failed s'
  | .waiting => .waiting

/-- `for i = n - 1 downto 0: WalkBit(b[i])` (R134, R135). -/
def walkBits (b : Byte) : Nat → State → LoopStep Unit
  | 0, s => .more () s
  | n + 1, s =>
    match s.child (edge (b.getLsbD n)) s.cur with
    | .error f => .stop (.stuck f)
    | .ok c =>
      let s1 := { s with cur := c }
      if isLeaf c then
        match s1.emitLeaf with
        | .accepted s2 => walkBits b n s2
        | .failed s2 => .stop (.raised .snkIo 0 s2)
        | .waiting => .stop (.wait (.unpackEmit b n) [] s1)
      else walkBits b n s1

/-- One token of UNPACK's loop (R134, R136). -/
def unpackToken (_ : Unit) (t : Token) (s : State) : LoopStep Unit :=
  match t with
  | .fail => .stop (.raised .srcIo 0 s)
  | .endOfPass => .stop (.ret { s with midwalk := s.cur != s.root })
  | .byte b => walkBits b 8 s

/-- UNPACK's loop (R134). -/
def unpackLoop (s : State) : Run := overTokens (fun _ => .unpackRead) unpackToken s.inq () s

/-- UNPACK from the Emit of WalkBit, with bits n - 1 .. 0 of b still to walk (R135). -/
def unpackFromEmit (b : Byte) (n : Nat) (s : State) : Run :=
  match s.emitLeaf with
  | .accepted s1 =>
    match walkBits b n s1 with
    | .more _ s2 => unpackLoop s2
    | .stop r => r
  | .failed s1 => .raised .snkIo 0 s1
  | .waiting => .wait (.unpackEmit b n) [] s

/-- UNPACK's body (R134, R138). -/
def unpackBody (s : State) : Run :=
  if s.root = Config.nil then .raised .noTree 0 s else unpackLoop { s with cur := s.root }

/-- UNPACK (R134). -/
def execUnpack (s : State) : Host.Outcome State Fault Refusal :=
  command (opcodeOf .unpack) .unpack [] unpackBody s

end Sys2Proof.Machine
end

