-- ==== Sys2Proof/Machine/Engine.lean ====
section
/-! DEFINITION. The engine's sequencing: the bodies by name, running the stages of a composite one after another (spec/40_control.md R97),
and resuming a waiting command at its position (10_state.md R22, 70_reset_and_hazards.md R177). -/

namespace Sys2Proof.Machine

open Sys2Proof

/-- DECOMPRESS's second part (48_composite.md R141): nothing after an empty artifact, else UNPACK's body. -/
def unpackUnlessEmptyBody (s : State) : Run := if s.emptyArt then .ret s else unpackBody s

/-- The body of a stage. -/
def stageBody : Stage → State → Run
  | .nop => nopBody
  | .softReset => softResetBody
  | .clearErr => clearErrBody
  | .freqClear => freqClearBody
  | .freqCount => freqCountBody
  | .heapBuild => heapBuildBody
  | .treeStep => treeStepBody
  | .treeBuild => treeBuildBody
  | .codesDerive => codesDeriveBody
  | .treeSerialize => treeSerializeBody
  | .treeDeserialize => treeDeserializeBody
  | .pack => packBody
  | .unpack => unpackBody
  | .unpackUnlessEmpty => unpackUnlessEmptyBody
  | .illegal opcode => illegalBody opcode

/-- One stage after what ran before it, unless the engine is held before it (log 2): a raise ends the command, a wait keeps the stage for
later (R97, R150). -/
def Run.andThen (r : Run) (c : Stage) : Run :=
  match r with
  | .ret s => if s.held then .wait (.enter c) [] s else stageBody c s.tick
  | .reset s => .reset s
  | .raised e info s => .raised e info s
  | .wait pos todo s => .wait pos (todo ++ [c]) s
  | .stuck f => .stuck f

/-- The stages `todo`, in order, after what ran before them. -/
def Run.chain (r : Run) (todo : List Stage) : Run := todo.foldl Run.andThen r

/-- A body from the position it waits at. -/
def resumeAt : Pos → State → Run
  | .enter c, s => if s.held then .wait (.enter c) [] s else stageBody c s.tick
  | .count, s => countLoop s
  | .serialize pending turns, s => serialLoop turns pending s
  | .parse p, s => parseLoop p s
  | .setRoot r, s => finishHeader r s
  | .packRead, s => packLoop s
  | .packBits b n, s => packFromBits b n s
  | .packFlush, s => flushPartial s
  | .unpackRead, s => unpackLoop s
  | .unpackEmit b n, s => unpackFromEmit b n s
  | .fail e info, s => .raised e info s
  | .leave, s => .ret s

/-- The engine goes on from where it stands (R22, R177); idle, it has nothing to do (70_reset_and_hazards.md R169). -/
def State.resume (s : State) : Host.Outcome State Fault Refusal :=
  match s.seq with
  | .idle => .next s
  | .running op pos todo => settle op ((resumeAt pos s).chain todo)

end Sys2Proof.Machine
end

