-- ==== Sys2Proof/Machine/Composite.lean ====
section
/-! DEFINITION. The composite commands (spec/48_composite.md). -/

namespace Sys2Proof.Machine

open Sys2Proof

/-- COMPRESS's sub-commands after FREQ_CLEAR (R139). -/
def compressRest : List Stage := [.freqCount, .heapBuild, .treeBuild, .codesDerive, .treeSerialize, .pack]

/-- COMPRESS's body (R139). -/
def compressBody (s : State) : Run := (freqClearBody s).chain compressRest

/-- COMPRESS (R139). -/
def execCompress (s : State) : Host.Outcome State Fault Refusal :=
  command (opcodeOf .compress) .freqClear compressRest compressBody s

/-- DECOMPRESS's part after TREE_DESERIALIZE (R141). -/
def decompressRest : List Stage := [.unpackUnlessEmpty]

/-- DECOMPRESS's body (R141). -/
def decompressBody (s : State) : Run := (treeDeserializeBody s).chain decompressRest

/-- DECOMPRESS (R141). -/
def execDecompress (s : State) : Host.Outcome State Fault Refusal :=
  command (opcodeOf .decompress) .treeDeserialize decompressRest decompressBody s

end Sys2Proof.Machine
end

