-- ==== Sys2Proof/Machine/Dispatch.lean ====
section
/-! DEFINITION. The effect of a CMD write of each command (spec/30_encoding.md R74): one arm for each constructor. -/

namespace Sys2Proof.Machine

open Sys2Proof

def exec (i : Instr) (s : State) : Host.Outcome State Fault Refusal :=
  match i with
  | .nop => Sys2Proof.Machine.execNop s
  | .softReset => Sys2Proof.Machine.execSoftReset s
  | .clearErr => Sys2Proof.Machine.execClearErr s
  | .freqClear => Sys2Proof.Machine.execFreqClear s
  | .freqCount => Sys2Proof.Machine.execFreqCount s
  | .heapBuild => Sys2Proof.Machine.execHeapBuild s
  | .treeStep => Sys2Proof.Machine.execTreeStep s
  | .treeBuild => Sys2Proof.Machine.execTreeBuild s
  | .codesDerive => Sys2Proof.Machine.execCodesDerive s
  | .treeSerialize => Sys2Proof.Machine.execTreeSerialize s
  | .treeDeserialize => Sys2Proof.Machine.execTreeDeserialize s
  | .pack => Sys2Proof.Machine.execPack s
  | .unpack => Sys2Proof.Machine.execUnpack s
  | .compress => Sys2Proof.Machine.execCompress s
  | .decompress => Sys2Proof.Machine.execDecompress s

end Sys2Proof.Machine
end

