-- ==== Sys2Proof/Machine/Bus.lean ====
section
/-! DEFINITION. The host register space (spec/10_state.md R41 to R47; 20_memory.md R53 to R59, R67). -/

namespace Sys2Proof.Machine

open Sys2Proof

/-- The offset of a register or window entry (R41). -/
def Reg.offset : Reg → Offset
  | .id => 0x0000
  | .version => 0x0004
  | .cmd => 0x0008
  | .status => 0x000C
  | .err => 0x0010
  | .total => 0x0014
  | .nsym => 0x0018
  | .root => 0x001C
  | .heapSize => 0x0020
  | .nextInt => 0x0024
  | .inCount => 0x0028
  | .outCount => 0x002C
  | .packState => 0x0030
  | .walk => 0x0034
  | .freq v => BitVec.ofNat 14 (0x0400 + 4 * v.val)
  | .heap i => BitVec.ofNat 14 (0x0800 + 4 * i.val)
  | .nodeLink j => BitVec.ofNat 14 (0x0C00 + 4 * j.val)
  | .nodeFreq j => BitVec.ofNat 14 (0x1000 + 4 * j.val)
  | .codeLen v => BitVec.ofNat 14 (0x1400 + 4 * v.val)
  | .codeBits v w => BitVec.ofNat 14 (0x2000 + 32 * v.val + 4 * w.val)

/-- The register of a single-register word k = offset / 4 (R41). -/
def singleReg : Nat → Option Reg
  | 0x0 => some .id
  | 0x1 => some .version
  | 0x2 => some .cmd
  | 0x3 => some .status
  | 0x4 => some .err
  | 0x5 => some .total
  | 0x6 => some .nsym
  | 0x7 => some .root
  | 0x8 => some .heapSize
  | 0x9 => some .nextInt
  | 0xA => some .inCount
  | 0xB => some .outCount
  | 0xC => some .packState
  | 0xD => some .walk
  | _ => none

/-- Entry k of the NODE_LINK window; its last word is reserved (R41). -/
def nodeLinkReg (k : Nat) : Option Reg := if h : k < 255 then some (.nodeLink ⟨k, h⟩) else none

/-- Entry k of the NODE_FREQ window; its last word is reserved (R41). -/
def nodeFreqReg (k : Nat) : Option Reg := if h : k < 255 then some (.nodeFreq ⟨k, h⟩) else none

/-- The register at an offset: none when it is misaligned (R54) or reserved (R55). -/
def regAt (a : Offset) : Option Reg :=
  let n := a.toNat
  if n % 4 ≠ 0 then none
  else if n < 0x0400 then singleReg (n / 4)
  else if n < 0x0800 then some (.freq (Fin.ofNat 256 ((n - 0x0400) / 4)))
  else if n < 0x0C00 then some (.heap (Fin.ofNat 256 ((n - 0x0800) / 4)))
  else if n < 0x1000 then nodeLinkReg ((n - 0x0C00) / 4)
  else if n < 0x1400 then nodeFreqReg ((n - 0x1000) / 4)
  else if n < 0x1800 then some (.codeLen (Fin.ofNat 256 ((n - 0x1400) / 4)))
  else if n < 0x2000 then none
  else some (.codeBits (Fin.ofNat 256 ((n - 0x2000) / 32)) (Fin.ofNat 8 ((n - 0x2000) / 4 % 8)))

/-- PACK_STATE: ACC in [7:0], ACC_N in [10:8] (R43). -/
def State.packStateWord (s : State) : Word := (s.accN.setWidth 32 <<< 8) ||| s.acc.setWidth 32

/-- NODE_LINK: left in [8:0], right in [24:16], valid in bit 31 (R46). -/
def Node.linkWord (nd : Node) : Word :=
  bitAt 31 nd.valid ||| (nd.right.setWidth 32 <<< 16) ||| nd.left.setWidth 32

/-- The word a register holds (R23, R38, R39, R42 to R47). CMD reads 0 (R40). -/
def State.readReg (s : State) : Reg → Word
  | .id => Config.idValue
  | .version => Config.versionValue
  | .cmd => 0
  | .status => s.statusWord
  | .err => s.err.word
  | .total => s.total
  | .nsym => s.nsym.setWidth 32
  | .root => s.root.setWidth 32
  | .heapSize => s.heapSize.setWidth 32
  | .nextInt => s.nextInt.setWidth 32
  | .inCount => s.inCount
  | .outCount => s.outCount
  | .packState => s.packStateWord
  | .walk => s.cur.setWidth 32
  | .freq v => s.freq.get v
  | .heap i => (s.heap.get i).setWidth 32
  | .nodeLink j => (s.node.get j).linkWord
  | .nodeFreq j => (s.node.get j).freq
  | .codeLen v => (s.codeLen.get v).setWidth 32
  | .codeBits v w => (s.codeBits.get v).extractLsb' (32 * w.val) 32

/-- The registers that read exactly while BUSY = 1 (R58); CMD reads 0 always (R56; log 9). -/
def Reg.exactWhileBusy : Reg → Bool
  | .id | .version | .cmd | .status | .err | .inCount | .outCount => true
  | .total | .nsym | .root | .heapSize | .nextInt | .packState | .walk => false
  | .freq _ | .heap _ | .nodeLink _ | .nodeFreq _ | .codeLen _ | .codeBits _ _ => false

/-- `MemRead(a, 4)`: the word on the bus afterwards. A read changes nothing of the block (R57); a read that R58 leaves unspecified is a
free draw (log 6). -/
def State.memRead (s : State) (a : Offset) : State :=
  match regAt a with
  | none => { s with busData := 0 }
  | some r =>
    if s.busy && !r.exactWhileBusy then { s with busData := Config.freeWord s.draws, draws := s.draws + 1 }
    else { s with busData := s.readReg r }

/-- A CMD write (40_control.md R91): the word is decoded (30_encoding.md R75) and offered. -/
def writeCmd (w : Word) (s : State) : Host.Outcome State Fault Refusal :=
  match decode w with
  | .command i => exec i s
  | .illegal _ => offerIllegal w s

/-- `MemWrite(a, 4, v)`: only CMD and STATUS are writable (R54 to R56). -/
def memWrite (a : Offset) (v : Word) (s : State) : Host.Outcome State Fault Refusal :=
  match regAt a with
  | some .cmd => writeCmd v s
  | some .status => .next (s.writeStatus v)
  | _ => .next s

end Sys2Proof.Machine
end

