-- ==== Sys2Proof/Machine/HostSide.lean ====
section
/-! DEFINITION. What one host action does (spec/00_scope.md R8, R9; 20_memory.md R60, R61; 70_reset_and_hazards.md R166 to R168, R176). -/

namespace Sys2Proof.Machine

open Sys2Proof

/-- The host appends tokens to IN (R60), as port words (R79). -/
def State.feed (s : State) (words : List PortWord) : State := { s with inq := s.inq ++ words.map Token.ofPort }

/-- The host withdraws every unconsumed token, while SEQ = IDLE only (R60; log 11). -/
def State.withdraw (s : State) : Host.Outcome State Fault Refusal :=
  if s.busy then .refused .withdrawWhileBusy else .next { s with inq := [] }

/-- The host settles its answers to the coming offers, and to every offer after those (R61, R80; log 5). -/
def State.answer (s : State) (bits : List (BitVec 1)) (rest : Option (BitVec 1)) : State :=
  { s with sink := bits.map SinkAnswer.ofPort, sinkRest := rest.map SinkAnswer.ofPort }

/-- The reset input goes to a level: asserted, while it is and when it ends, every state element takes its reset value (R166). -/
def State.resetTo (s : State) (level : Bool) : State := { s.toReset with inReset := level }

/-- A host action while the reset input is asserted, in a state that it holds at the reset values (R166): bus writes are void, reads see the
reset values, and the host's side of the streams goes on (R168; log 10). -/
def actInReset (a : HostAction) (s : State) : Host.Outcome State Fault Refusal :=
  match a with
  | .read off => .next (s.memRead off)
  | .write _ _ => .next s
  | .feed words => .next (s.feed words)
  | .withdraw => s.withdraw
  | .answer bits rest => .next (s.answer bits rest)
  | .letRun pace => .next { s with pace := pace }
  | .assertReset => .next s
  | .releaseReset => .next (s.resetTo false)

/-- A host action while the reset input is not asserted. Releasing it again does nothing. -/
def actOutOfReset (a : HostAction) (s : State) : Host.Outcome State Fault Refusal :=
  match a with
  | .read off => .next (s.memRead off)
  | .write off v => memWrite off v s
  | .feed words => .next (s.feed words)
  | .withdraw => s.withdraw
  | .answer bits rest => .next (s.answer bits rest)
  | .letRun pace => State.resume { s with pace := pace }
  | .assertReset => .next (s.resetTo true)
  | .releaseReset => .next s

/-- One host action. -/
def hostAct (a : HostAction) (s : State) : Host.Outcome State Fault Refusal :=
  if s.inReset then actInReset a s.toReset else actOutOfReset a s

/-- With no host action pending the engine runs on freely until it ends or waits for the host (R177, R180; log 3), unless the reset input
holds it (R166). -/
def State.runFree (s : State) : Host.Outcome State Fault Refusal :=
  if s.inReset then .next s.toReset else State.resume { s with pace := none }

/-- The host action that writes a word to CMD (R40). -/
def cmdWrite (w : Word) : HostAction := .write Reg.cmd.offset w

/-- The state whose next host action is the CMD write of a word of spec/opcode_table.json, with the reset input released (log 14). A word of
more than 32 bits fits no CMD write: nothing is placed. -/
def State.placeWord (s : State) (nbits w : Nat) : State :=
  match tableWord nbits w with
  | some word => { s with host := cmdWrite word :: s.host, inReset := false }
  | none => s

end Sys2Proof.Machine
end

