-- ==== Sys2Proof/Machine/Step.lean ====
section
/-! DEFINITION. One step: the host's next action, with as much of the engine's work as it starts; with no action pending, the engine's own
work (log 1). -/

namespace Sys2Proof.Machine

open Sys2Proof

/-- The machine's step (spec/20_memory.md R65, R66). -/
def step (s : State) : Host.Outcome State Fault Refusal :=
  match s.host with
  | [] => s.runFree
  | a :: rest => hostAct a { s with host := rest }

/-- The state whose next step is the CMD write of that word (log 14). -/
def State.withFetchWord (s : State) (nbits w : Nat) : State := s.placeWord nbits w

end Sys2Proof.Machine
end

