-- ==== Sys2Proof/Machine/HostProgram.lean ====
section
/-! DEFINITION. Host programs (spec/30_encoding.md R88 to R90): the statements, the pseudo-statements, their encoding, and running one against the
machine. -/

namespace Sys2Proof.Machine

open Sys2Proof

/-! ### The language (R88, R90) -/

/-- An item of a FEED statement (R88). A quoted string stands for its ASCII bytes (00_scope.md R13). -/
inductive FeedItem
  | byte (b : Byte)
  | text (bytes : List Byte)
  | endMark
  | failMark
deriving DecidableEq, Repr

/-- A statement of a host program (R88). -/
inductive Stmt
  | cmd (i : Instr)                                -- CMD <mnemonic>
  | cmdw (w : Word)                                -- CMDW 0x<8 hex digits>
  | write (r : Reg) (v : Word)                     -- WRITE <reg>, 0x<hex>
  | read (r : Reg) (expected : Option Word)        -- READ <reg> [= 0x<hex>]
  | feed (items : List FeedItem)                   -- FEED <item> ...
  | drain                                          -- DRAIN
  | sinkFail (k : Nat)                             -- SINK FAIL <k>
  | wait                                           -- WAIT
  | expectOut (bytes : List Byte)                  -- EXPECT OUT <bytes>
deriving DecidableEq, Repr

/-- A line of a host program: a statement, or a pseudo-statement (R90). -/
inductive Line
  | stmt (st : Stmt)
  | run (i : Instr)                                -- RUN <mnemonic>
  | pass (bytes : List Byte)                       -- PASS "<text>"
deriving DecidableEq, Repr

/-- A statement the host may write: `SINK FAIL k` has k >= 1 (R88). -/
def Stmt.wellFormed : Stmt → Bool
  | .sinkFail k => k != 0
  | .cmd _ | .cmdw _ | .write _ _ | .read _ _ | .feed _ | .drain | .wait | .expectOut _ => true

/-- What a pseudo-statement expands to (R90). -/
def Line.expand : Line → List Stmt
  | .stmt st => [st]
  | .run i => [.cmd i, .wait]
  | .pass bytes => [.feed [.text bytes, .endMark]]

/-! ### The encoding (R89) -/

/-- The tokens of a FEED item (R88, R90), as port words (R79). -/
def FeedItem.words : FeedItem → List PortWord
  | .byte b => [Token.toPort (.byte b)]
  | .text bytes => bytes.map (fun b => Token.toPort (.byte b))
  | .endMark => [Token.toPort .endOfPass]
  | .failMark => [Token.toPort .fail]

/-- The IN tokens a statement appends (R89). -/
def Stmt.tokens : Stmt → List PortWord
  | .feed items => items.flatMap FeedItem.words
  | .cmd _ | .cmdw _ | .write _ _ | .read _ _ | .drain | .sinkFail _ | .wait | .expectOut _ => []

/-- The bus writes a statement makes (R88, R89). -/
def Stmt.busWrites : Stmt → List (Offset × Word)
  | .cmd i => [(Reg.cmd.offset, encode i)]
  | .cmdw w => [(Reg.cmd.offset, w)]
  | .write r v => [(r.offset, v)]
  | .read _ _ | .feed _ | .drain | .sinkFail _ | .wait | .expectOut _ => []

/-- The encoding of a program: its bus writes and its IN tokens (R89). -/
def programEncoding (program : List Line) : List (Offset × Word) × List PortWord :=
  let stmts := program.flatMap Line.expand
  (stmts.flatMap Stmt.busWrites, stmts.flatMap Stmt.tokens)

/-! ### Running a program (R88; log 18) -/

/-- The sink's answers that fail the k-th offer (R88); every offer after it is answered OK. -/
def failAt (k : Nat) : List (BitVec 1) := List.replicate (k - 1) 0 ++ [1]

/-- The host actions of one turn of a statement. Every statement but WAIT is done after one turn; a turn of WAIT is one read of STATUS. DESIGN
CHOICE (log 18): a SINK FAIL replaces the answers that an earlier one still has to give, so a FAIL of the earlier line that no offer has met
is cancelled; R88 does not say which of two such lines holds. -/
def Stmt.turn (st : Stmt) : List HostAction :=
  match st with
  | .cmd _ | .cmdw _ | .write _ _ => st.busWrites.map (fun p => .write p.1 p.2)
  | .read r _ => [.read r.offset]
  | .feed _ => [.feed st.tokens, .letRun none]
  | .drain => [.withdraw]
  | .sinkFail k => [.answer (failAt k) (some 0)]
  | .wait => [.letRun none, .read Reg.status.offset]
  | .expectOut _ => []

/-- The host performs its actions one after another, each as a step of the machine. -/
def performAll : List HostAction → State → Host.Outcome State Fault Refusal
  | [], s => .next s
  | a :: later, s =>
    match step { s with host := [a] } with
    | .next t => performAll later t
    | .fault f => .fault f
    | .refused r => .refused r

/-- A program being run. -/
structure ProgramRun where
  machine : State
  /-- The statements still to do. -/
  todo : List Stmt
  /-- How many bytes OUT held at the last EXPECT OUT, or at the program start (R88). -/
  mark : Nat
  /-- The READ and EXPECT OUT statements whose value was not the one the program gives, in order. -/
  mismatches : List Stmt
deriving DecidableEq, Repr

/-- WAIT is done when the STATUS it read has BUSY = 0 (R88); any other statement after its turn. -/
def Stmt.finished (st : Stmt) (s : State) : Bool :=
  match st with
  | .wait => !s.busData.getLsbD 0
  | .cmd _ | .cmdw _ | .write _ _ | .read _ _ | .feed _ | .drain | .sinkFail _ | .expectOut _ => true

/-- The value a statement gives is the one found after its turn (R88): a READ's word, and the bytes accepted since the mark. -/
def Stmt.agrees (st : Stmt) (mark : Nat) (s : State) : Bool :=
  match st with
  | .read _ (some v) => s.busData == v
  | .expectOut bytes => s.out.drop mark == bytes
  | .read _ none | .cmd _ | .cmdw _ | .write _ _ | .feed _ | .drain | .sinkFail _ | .wait => true

/-- Where the mark is after a statement: EXPECT OUT moves it (R88). -/
def Stmt.markAfter (st : Stmt) (mark : Nat) (s : State) : Nat :=
  match st with
  | .expectOut _ => s.out.length
  | .cmd _ | .cmdw _ | .write _ _ | .read _ _ | .feed _ | .drain | .sinkFail _ | .wait => mark

/-- The run after a turn of `st` that left the machine in state s. -/
def ProgramRun.afterTurn (r : ProgramRun) (st : Stmt) (later : List Stmt) (s : State) : ProgramRun where
  machine := s
  todo := if st.finished s then later else st :: later
  mark := st.markAfter r.mark s
  mismatches := if st.agrees r.mark s then r.mismatches else r.mismatches ++ [st]

/-- One turn of the program's next statement. -/
def ProgramRun.step (r : ProgramRun) : Host.Outcome ProgramRun Fault Refusal :=
  match r.todo with
  | [] => .next r
  | st :: later =>
    match performAll st.turn r.machine with
    | .next s => .next (r.afterTurn st later s)
    | .fault f => .fault f
    | .refused f => .refused f

/-- The start of a program: the engine is not held, and every offer is answered `OK` unless a SINK statement says otherwise (R88). -/
def ProgramRun.start (program : List Line) (s : State) : ProgramRun where
  machine := { s with host := [], pace := none, sink := [], sinkRest := some .ok }
  todo := program.flatMap Line.expand
  mark := s.out.length
  mismatches := []

/-- A program has run to its end, and every value it gives was found. -/
def ProgramRun.passed (r : ProgramRun) : Bool := r.todo.isEmpty && r.mismatches.isEmpty

end Sys2Proof.Machine
end

