-- ==== Sys2Proof/Safety.lean ====
section
/-! DEFINITION. The terms the claims use: the trees and code strings the spec speaks of, the artifact's bytes, what a state denotes, and the
invariants of spec/10_state.md R49 to R51. Nothing here is part of the machine. -/

namespace Sys2Proof.Machine

open Sys2Proof

/-! ### When a command is accepted, and what completion leaves (40_control.md R91 to R93) -/

/-- A CMD write is accepted (R91) and no host action lands before the command ends or waits for the host (log 3). -/
def State.Ready (s : State) : Prop := s.seq = .idle ∧ s.err.code = 0 ∧ s.pace = none

/-- What R92 and R93 alone leave after a command that completes: SEQ idle, DONE, the cleared flags and counts. -/
def State.completed (s : State) : State :=
  { s with seq := .idle, done := true, emptyArt := false, midwalk := false, inCount := 0, outCount := 0 }

/-- What R92 alone leaves of a command with opcode `op` that waits at `pos` (70_reset_and_hazards.md R177). -/
def State.waitingAt (s : State) (op : Byte) (pos : Pos) : State :=
  { s with seq := .running op pos [], done := false, emptyArt := false, midwalk := false, inCount := 0, outCount := 0 }

/-- What R92 and R150 alone leave after the command with opcode `op` raises `e` with `info`. -/
def State.failedWith (s : State) (op : Byte) (e : ErrorKind) (info : Byte) : State :=
  { s with
    seq := .idle, done := false, emptyArt := false, midwalk := false, inCount := 0, outCount := 0
    err := ⟨e.code, op, info, e.cls⟩ }

/-- The sink's answer to the (k + 1)-th coming offer; none while the host has not decided it (20_memory.md R61). -/
def State.answerAt (s : State) (k : Nat) : Option SinkAnswer := s.sink[k]?.or s.sinkRest

/-- The sink accepts each of the next n offered bytes. -/
def State.Accepts (s : State) (n : Nat) : Prop := ∀ k < n, s.answerAt k = some .ok

/-- The sink accepts k more offered bytes and fails the next one. -/
def State.FailsAt (s : State) (k : Nat) : Prop := s.Accepts k ∧ s.answerAt k = some .fail

/-- The same block with a sink that accepts every offer (30_encoding.md R88). -/
def State.accepting (s : State) : State := { s with sink := [], sinkRest := some .ok }

/-- IN holds one pass with these bytes, then `rest` (00_scope.md, glossary: pass). -/
def passOf (bytes : List Byte) (rest : List Token) : List Token := bytes.map Token.byte ++ Token.endOfPass :: rest

/-! ### Trees (10_state.md R29; 30_encoding.md R82) -/

/-- A strict binary tree over byte values. -/
inductive CodeTree
  | leaf (v : Byte)
  | node (l r : CodeTree)
deriving DecidableEq, Repr

/-- Its number of internal nodes. -/
def CodeTree.internals : CodeTree → Nat
  | .leaf _ => 0
  | .node l r => l.internals + r.internals + 1

/-- Its leaf values, left to right. -/
def CodeTree.leaves : CodeTree → List Byte
  | .leaf v => [v]
  | .node l r => l.leaves ++ r.leaves

/-- It is no lone leaf: "a leaf cannot be a decoding root" (R50). -/
def CodeTree.isNode : CodeTree → Bool
  | .leaf _ => false
  | .node _ _ => true

/-- Its header: the grammar of R82. -/
def CodeTree.header : CodeTree → List Byte
  | .leaf v => [0x01, v]
  | .node l r => 0x00 :: (l.header ++ r.header)

/-- Its leaves in pre-order with their paths, 0 = left edge, first edge first (44_code_table.md R119). -/
def CodeTree.paths : CodeTree → List (Byte × List Bool)
  | .leaf v => [(v, [])]
  | .node l r => l.paths.map (fun p => (p.1, false :: p.2)) ++ r.paths.map (fun p => (p.1, true :: p.2))

/-- The code of v: the path of its first position in pre-order (R119, R120). -/
def CodeTree.codeOf (t : CodeTree) (v : Byte) : Option (List Bool) := t.paths.lookup v

/-- The leaf reached by left edges only, and its depth (47_bit_unpacker.md R137). -/
def CodeTree.leftmost : CodeTree → Byte × Nat
  | .leaf v => (v, 0)
  | .node l _ => (l.leftmost.1, l.leftmost.2 + 1)

/-- Slot n of the node RAM holds the tree t (R29, R30). -/
def State.Denotes (s : State) : CodeTree → Idx → Prop
  | .leaf v, n => n = leafSlot v
  | .node l r, n =>
    ∃ j, slot? n = some j ∧ (s.node.get j).valid = true ∧
      s.Denotes l (s.node.get j).left ∧ s.Denotes r (s.node.get j).right

/-- ROOT holds the tree t, within the 255 internal slots (R30, R50). -/
def State.HasTree (s : State) (t : CodeTree) : Prop :=
  t.isNode = true ∧ t.internals ≤ 255 ∧ s.Denotes t s.root

/-! ### Codes and payload bits (10_state.md R34; 30_encoding.md R85, R86) -/

/-- The number a bit string spells, first bit most significant (R34). -/
def bitsValue (bits : List Bool) : Nat := bits.foldl (fun n b => 2 * n + b.toNat) 0

/-- The code the table holds for v: CODE_LEN[v] bits of CODE_BITS[v], bit CODE_LEN[v] - 1 first (R34). -/
def State.tableCode (s : State) (v : Byte) : List Bool :=
  (List.range (s.codeLenOf v).toNat).reverse.map (fun i => (s.codeBitsOf v).getLsbD i)

/-- The payload bit string of an input (R85). -/
def State.payloadBits (s : State) (bytes : List Byte) : List Bool := bytes.flatMap s.tableCode

/-- The byte with these bits, bit 7 first. -/
def byteOfBits (bits : List Bool) : Byte := BitVec.ofNat 8 (bitsValue bits)

/-- The payload bytes of a bit string: groups of 8, MSB first, the last one filled with zero pad bits (R85, R86). -/
def packBytes : List Bool → List Byte
  | [] => []
  | b7 :: b6 :: b5 :: b4 :: b3 :: b2 :: b1 :: b0 :: rest => byteOfBits [b7, b6, b5, b4, b3, b2, b1, b0] :: packBytes rest
  | short => [byteOfBits (short ++ List.replicate (8 - short.length) false)]

/-- The bits of a payload, most significant first in each byte (R62, R85). -/
def bitsOfBytes (bytes : List Byte) : List Bool :=
  bytes.flatMap (fun b => (List.range 8).reverse.map (fun i => b.getLsbD i))

/-- The walk of R135 from position `cur` of the tree `root`, `mid` telling whether `cur` is below the root: the bytes it emits, and whether
it ends below the root (R136). -/
def decodeBits (root : CodeTree) : CodeTree → Bool → List Bool → List Byte × Bool
  | _, mid, [] => ([], mid)
  | .leaf _, mid, _ :: _ => ([], mid)
  | .node l r, _, b :: bits =>
    match if b then r else l with
    | .leaf v => (v :: (decodeBits root root false bits).1, (decodeBits root root false bits).2)
    | .node l' r' => decodeBits root (.node l' r') true bits

/-- The bits that lead from the root to where that walk stands: those since the last leaf (R135). -/
def pendingPath (root : CodeTree) : CodeTree → List Bool → List Bool → List Bool
  | _, path, [] => path
  | .leaf _, path, _ :: _ => path
  | .node l r, path, b :: bits =>
    match if b then r else l with
    | .leaf _ => pendingPath root root [] bits
    | .node l' r' => pendingPath root (.node l' r') (path ++ [b]) bits

/-- The bits since the last leaf after a whole payload. -/
def CodeTree.pending (t : CodeTree) (payload : List Byte) : List Bool := pendingPath t t [] (bitsOfBytes payload)

/-- The node index one edge below n: 0 is left, 1 is right (R135). -/
def State.below (s : State) (n : Idx) (b : Bool) : Idx :=
  match slot? n with
  | some j => if b then (s.node.get j).right else (s.node.get j).left
  | none => n

/-- The node index that a path of bits reaches from ROOT. -/
def State.nodeAt (s : State) (path : List Bool) : Idx := path.foldl s.below s.root

/-- What UNPACK makes of a payload with the tree t (R134 to R136). -/
def CodeTree.unpacked (t : CodeTree) (payload : List Byte) : List Byte × Bool := decodeBits t t false (bitsOfBytes payload)

/-! ### Reading a header by counting (30_encoding.md R83) -/

/-- How reading a header ends, with the tokens left in IN. -/
inductive HeaderEnd
  | starved                                                     -- IN ran out of tokens first
  | empty (rest : List Token)                                   -- the empty artifact (R126)
  | bad (e : ErrorKind) (info : Byte) (rest : List Token)       -- an error of R127
  | complete (rest : List Token)                                -- P reached 0
deriving DecidableEq, Repr

/-- Reading a header with the count P of R83 and the number of TAG_INT bytes so far; `first` before the first byte (R126, R127). -/
def headerEnd (first : Bool) (p ints : Nat) : List Token → HeaderEnd
  | [] => .starved
  | .fail :: rest => .bad .srcIo 0 rest
  | .endOfPass :: rest => if first then .empty rest else .bad .truncated 0 rest
  | .byte b :: rest =>
    if b = 0x00 then
      if ints = 255 then .bad .treeTooLarge 0 rest else headerEnd false (p + 1) (ints + 1) rest
    else if b = 0x01 then
      if first then .bad .degenerate 0 rest
      else
        match rest with
        | [] => .starved
        | .fail :: rest' => .bad .srcIo 0 rest'
        | .endOfPass :: rest' => .bad .truncated 0 rest'
        | .byte _ :: rest' => if p = 1 then .complete rest' else headerEnd false (p - 1) ints rest'
    else .bad .badTag b rest

/-! ### Invariants (10_state.md R34, R35, R39, R49 to R51) -/

/-- R49: TOTAL is the sum of FREQ, NSYM the number of nonzero entries. -/
def State.CountsAgree (s : State) : Prop :=
  s.total.toNat = (s.freq.cells.map BitVec.toNat).sum ∧ s.nsym.toNat = (s.freq.cells.filter (· != 0)).length

/-- R51, first sentence, and R33: at most 256 live entries, and NIL in every other one. -/
def State.HeapTailNil (s : State) : Prop := s.live ≤ 256 ∧ ∀ i, s.live ≤ i → s.heapAt i = Config.nil

/-- The live heap entries, position 0 first (R33). -/
def State.liveHeap (s : State) : List Idx := s.heap.cells.take s.live

/-- The heap order, written out (42_heap.md R105): the lesser weight first, and at equal weights the lower node index. -/
def State.Before (s : State) (a b : Idx) : Prop :=
  (s.weight a).toNat < (s.weight b).toNat ∨ ((s.weight a).toNat = (s.weight b).toNat ∧ a.toNat < b.toNat)

/-- The heap invariant (42_heap.md R106). -/
def State.HeapOrdered (s : State) : Prop := ∀ i, 0 < i → i < s.live → s.Before (s.heapAt ((i - 1) / 2)) (s.heapAt i)

/-- R131: between calls of PutBit, ACC < 2^ACC_N. -/
def State.AccBounded (s : State) : Prop := s.acc.toNat < 2 ^ s.accN.toNat

/-- R34: bits CODE_LEN[v] and up of CODE_BITS[v] are 0; so a symbol with no code has CODE_BITS 0. -/
def State.CodesAligned (s : State) : Prop := ∀ v, (s.codeBitsOf v).toNat < 2 ^ (s.codeLenOf v).toNat

/-- R39, R145: ERR is 0, or a code of R145 with its class. -/
def State.ErrLegal (s : State) : Prop :=
  s.err = .none ∨ ∃ e : ErrorKind, s.err.code = e.code ∧ s.err.cls = e.cls

/-- While an error is recorded only SOFT_RESET and CLEAR_ERR can be running, and only before their first step (40_control.md R95). -/
def State.ErrHolds (s : State) : Prop :=
  s.err.code ≠ 0 → s.seq = .idle ∨ (∃ op, s.seq = .running op (.enter .softReset) []) ∨
    ∃ op, s.seq = .running op (.enter .clearErr) []

/-- The stages of a command, in order (R97; 48_composite.md R139, R141). -/
def Instr.plan : Instr → List Stage
  | .nop => [.nop]
  | .softReset => [.softReset]
  | .clearErr => [.clearErr]
  | .freqClear => [.freqClear]
  | .freqCount => [.freqCount]
  | .heapBuild => [.heapBuild]
  | .treeStep => [.treeStep]
  | .treeBuild => [.treeBuild]
  | .codesDerive => [.codesDerive]
  | .treeSerialize => [.treeSerialize]
  | .treeDeserialize => [.treeDeserialize]
  | .pack => [.pack]
  | .unpack => [.unpack]
  | .compress => .freqClear :: compressRest
  | .decompress => .treeDeserialize :: decompressRest

/-- The stage whose body holds the position. -/
def Pos.inStage : Pos → Stage → Prop
  | .enter c, d => c = d
  | .count, d => d = .freqCount
  | .serialize _ _, d => d = .treeSerialize
  | .parse _, d | .setRoot _, d => d = .treeDeserialize
  | .packRead, d | .packBits _ _, d | .packFlush, d => d = .pack
  | .unpackRead, d | .unpackEmit _ _, d => d = .unpack ∨ d = .unpackUnlessEmpty
  | .fail _ _, _ | .leave, _ => False

/-- R21, R22, R97: a running command stands in one stage of its plan, with the later ones still to run, or it has nothing more to run and is
before its completion or before a raise. -/
def State.SeqLegal (s : State) : Prop :=
  match s.seq with
  | .idle => True
  | .running op pos todo =>
    (todo = [] ∧ (pos = .leave ∨ ∃ e info, pos = .fail e info)) ∨
      ∃ plan pre c, ((∃ i, opcodeOf i = op ∧ Instr.plan i = plan) ∨ plan = [.illegal op]) ∧ plan = pre ++ c :: todo ∧ pos.inStage c

/-- R24, R92: DONE is 0 while a command runs. -/
def State.BusyNotDone (s : State) : Prop := s.busy = true → s.done = false

/-- R166: while the reset input is asserted every state element is at its reset value, the traversal stack, which R48 leaves unspecified, at the
empty one of log 8. -/
def State.ResetHolds (s : State) : Prop := s.inReset = true → s = s.toReset

/-- R37: the traversal stack never holds more than 256 entries. -/
def State.StackBounded (s : State) : Prop := s.stack.length ≤ 256

/-- The invariants every step keeps, whatever the host does. -/
structure State.Inv (s : State) : Prop where
  counts : s.CountsAgree
  heapTail : s.HeapTailNil
  acc : s.AccBounded
  codes : s.CodesAligned
  errLegal : s.ErrLegal
  errHolds : s.ErrHolds
  seqLegal : s.SeqLegal
  busyNotDone : s.BusyNotDone
  resetHolds : s.ResetHolds
  stack : s.StackBounded

/-- Every internal node of the tree at n lies below slot k: later allocations do not touch it. -/
def State.DenotesBelow (s : State) (k : Nat) : CodeTree → Idx → Prop
  | .leaf v, n => n = leafSlot v
  | .node l r, n =>
    n.toNat < k ∧ ∃ j, slot? n = some j ∧ (s.node.get j).valid = true ∧
      s.DenotesBelow k l (s.node.get j).left ∧ s.DenotesBelow k r (s.node.get j).right

/-- R50, with what makes it hold from command to command: the live heap entries are the roots of trees that use up the allocated slots (so
that a merge always finds a slot, R118), and a current tree is the only live entry, or the heap is empty. -/
structure State.TreesOk (s : State) : Prop where
  tail : s.HeapTailNil
  root : s.root = Config.nil ∨ ∃ t, s.HasTree t
  rootAlone : s.root ≠ Config.nil → s.live = 0 ∨ (s.live = 1 ∧ s.heapAt 0 = s.root)
  forest : s.live = 0 ∨ ∃ ts : List CodeTree,
    List.Forall₂ (s.DenotesBelow s.nextInt.toNat) ts s.liveHeap ∧
      s.nextInt.toNat = 256 + (ts.map CodeTree.internals).sum ∧ s.nextInt.toNat + s.live ≤ 512

/-! ### Sequences of commands (48_composite.md R143) -/

/-- The commands `is` run one by one from s, each accepted after the one before completed; n `Byte` tokens are consumed and m bytes emitted on
the way, and the last command leaves t. -/
def Completes : List Instr → State → Word → Word → State → Prop
  | [], s, n, m, t => s = t ∧ n = 0 ∧ m = 0
  | i :: is, s, n, m, t => ∃ s1 n1 m1, exec i s = .next s1 ∧ s1.seq = .idle ∧ s1.done = true ∧ Completes is s1 n1 m1 t ∧
      n = s1.inCount + n1 ∧ m = s1.outCount + m1

/-- What the composite with opcode `op` leaves where one of its sub-commands leaves t, after n `Byte` tokens and m emitted bytes of the
sub-commands before it, with the stages `later` to come: the same state, but that IN_COUNT and OUT_COUNT count the whole composite, ERR.OPCODE and SEQ
name it, and a wait keeps the later stages (R143). -/
def State.inComposite (t : State) (op : Byte) (n m : Word) (later : List Stage) : State :=
  { t with
    inCount := n + t.inCount
    outCount := m + t.outCount
    err := if t.seq = .idle ∧ t.done = false then { t.err with opcode := op } else t.err
    seq := match t.seq with
      | .idle => .idle
      | .running _ pos todo => .running op pos (todo ++ later) }

/-- COMPRESS's sub-commands (R139). -/
def compressCommands : List Instr := [.freqClear, .freqCount, .heapBuild, .treeBuild, .codesDerive, .treeSerialize, .pack]

/-- The errors a command can raise (60_exceptions.md R158). -/
def errorsOf : Instr → List ErrorKind
  | .nop | .softReset | .clearErr | .freqClear | .heapBuild | .treeStep | .treeBuild | .codesDerive => []
  | .freqCount => [.srcIo, .countOverflow]
  | .treeSerialize => [.snkIo]
  | .treeDeserialize => [.srcIo, .truncated, .degenerate, .badTag, .treeTooLarge]
  | .pack => [.srcIo, .codeMiss, .snkIo]
  | .unpack => [.noTree, .srcIo, .snkIo]
  | .compress => [.srcIo, .countOverflow, .codeMiss, .snkIo]
  | .decompress => [.srcIo, .truncated, .degenerate, .badTag, .treeTooLarge, .snkIo]

end Sys2Proof.Machine
end

