-- ==== Sys2Proof/Certificates/Slice0/Obligations.lean ====
section
/-! DEFINITION. The statements for the provers. Each docstring names the rules of spec/ it formalises and, where a clause rests on a choice of the
model, the log entry. -/

open Sys2Proof Sys2Proof.Machine

/-! ### Reset (10_state.md R42, R48; 40_control.md R99; 70_reset_and_hazards.md R166 to R168) -/

/-- R48: what reset leaves in every state element, and the constants of ID and VERSION. (The traversal stack is unspecified (R37; log 8) and not
named here.) -/
def Obligations.ResetLeavesSpecifiedValues : Prop :=
  let r := State.reset
  r.seq = .idle ∧ r.statusWord = 0 ∧ r.done = false ∧ r.rej = false ∧ r.emptyArt = false ∧ r.midwalk = false ∧
    r.busy = false ∧ r.errSet = false ∧ r.treeValid = false ∧ r.err.word = 0 ∧
    (∀ v, r.freq.get v = 0) ∧ r.total = 0 ∧ r.nsym = 0 ∧ (∀ j, r.node.get j = ⟨false, 0, 0, 0⟩) ∧
    r.nextInt = 256 ∧ r.root = 511 ∧ (∀ i, r.heap.get i = 511) ∧ r.heapSize = 0 ∧
    (∀ v, r.codeLen.get v = 0) ∧ (∀ v, r.codeBits.get v = 0) ∧ r.acc = 0 ∧ r.accN = 0 ∧ r.cur = 511 ∧
    r.inCount = 0 ∧ r.outCount = 0 ∧ r.readReg .id = 0x48554646 ∧ r.readReg .version = 0x00010100

/-- R166, R168: when the reset input goes to asserted, in any state, busy or not, every element takes its reset value and both streams stay; while it is
asserted bus writes are void (log 10), reads see the reset values, IN can be fed and nothing else happens; when it ends the elements have their reset
values; a release while it is not asserted does nothing, which no rule says and the model chose (log 10, DESIGN CHOICE). That the host's own fields stay is
the model's too (log 10), and so is the empty traversal stack, which R48 leaves unspecified (log 8). -/
def Obligations.HardResetFromAnyState : Prop :=
  ∀ (s : State) (rest : List HostAction),
    let held := fun (level : Bool) => { State.reset with
      inReset := level, inq := s.inq, out := s.out, sink := s.sink, sinkRest := s.sinkRest, host := rest, pace := s.pace
      busData := s.busData, draws := s.draws }
    (s.host = .assertReset :: rest → step s = .next (held true)) ∧
    (∀ a v, s.inReset = true → s.host = .write a v :: rest → step s = .next (held true)) ∧
    (∀ r : Reg, s.inReset = true → s.host = .read r.offset :: rest →
      step s = .next { held true with busData := State.reset.readReg r }) ∧
    (∀ words, s.inReset = true → s.host = .feed words :: rest →
      step s = .next { held true with inq := s.inq ++ words.map Token.ofPort }) ∧
    (s.inReset = true → s.host = [] → rest = [] → step s = .next (held true)) ∧
    (s.inReset = true → s.host = .releaseReset :: rest → step s = .next (held false)) ∧
    (s.inReset = false → s.host = .releaseReset :: rest → step s = .next { s with host := rest })

/-- R99, R94, R95, R167, R168: SOFT_RESET while a command runs (it is aborted), or idle whatever ERR is, in an engine that is not held before its first
step (log 3): the reset values with DONE = 1, SEQ among them, in one event; STATUS reads 2, both streams stay. An idle block that was held
there and resumes does the same, whatever the host did meanwhile. The host's own fields stay (log 10); the empty traversal stack, which R48 leaves
unspecified, is log 8's. -/
def Obligations.SoftResetFromAnyState : Prop :=
  ∀ s : State,
    let after := fun (pace : Option Nat) => { State.reset with
      done := true, inReset := s.inReset, inq := s.inq, out := s.out, sink := s.sink, sinkRest := s.sinkRest, host := s.host, pace := pace
      busData := s.busData, draws := s.draws }
    (∀ pace, (after pace).statusWord = 0x00000002) ∧
    (s.busy = true → exec .softReset s = .next (after s.pace)) ∧
    (s.busy = false → s.pace ≠ some 0 → exec .softReset s = .next (after (s.pace.map (· - 1)))) ∧
    (s.seq = .running 0x01 (.enter .softReset) [] → s.pace ≠ some 0 → State.resume s = .next (after (s.pace.map (· - 1))))

/-! ### The lifecycle (40_control.md R91 to R96; 30_encoding.md R75) -/

/-- R94: a CMD write of any word while BUSY = 1 sets REJ and changes nothing else; the exact word 1 aborts the command and resets. In that clause the
host's own fields are log 10's, and the empty traversal stack, which R48 leaves unspecified, is log 8's. -/
def Obligations.CmdWriteWhileBusy : Prop :=
  ∀ (s : State) (w : Word), s.busy = true →
    (w ≠ 0x00000001 → memWrite 0x0008 w s = .next { s with rej := true }) ∧
      memWrite 0x0008 0x00000001 s = .next { State.reset with
        done := true, inReset := s.inReset, inq := s.inq, out := s.out, sink := s.sink, sinkRest := s.sinkRest, host := s.host, pace := s.pace
        busData := s.busData, draws := s.draws }

/-- R95: while ERR = 1 and BUSY = 0 every word but 1 and 2 is rejected, and those two are accepted: held before their first step (log 2), the
block is RUNNING them with the effects of R92 and nothing else. -/
def Obligations.CmdWriteWhileError : Prop :=
  ∀ (s : State) (w : Word), s.seq = .idle → s.err.code ≠ 0 →
    (w ≠ 0x00000001 → w ≠ 0x00000002 → memWrite 0x0008 w s = .next { s with rej := true }) ∧
      (s.pace = some 0 → w = 0x00000001 → memWrite 0x0008 w s = .next { s with
        seq := .running 0x01 (.enter .softReset) [], done := false, emptyArt := false, midwalk := false, inCount := 0, outCount := 0 }) ∧
      (s.pace = some 0 → w = 0x00000002 → memWrite 0x0008 w s = .next { s with
        seq := .running 0x02 (.enter .clearErr) [], done := false, emptyArt := false, midwalk := false, inCount := 0, outCount := 0 })

/-- R92: accepting any word, seen in a block that is held before the first step (log 2): SEQ = RUNNING(w[7:0]), DONE, EMPTY_ART, MIDWALK, IN_COUNT
and OUT_COUNT cleared; REJ, ERR and every table keep their values. -/
def Obligations.AcceptingAnyWord : Prop :=
  ∀ (s : State) (w : Word), s.seq = .idle → s.err.code = 0 → s.pace = some 0 →
    ∃ pos todo, memWrite 0x0008 w s = .next { s with
      seq := .running (w.setWidth 8) pos todo, done := false, emptyArt := false, midwalk := false, inCount := 0, outCount := 0 }

/-- R75, R77, R150: an accepted word with w[31:8] != 0, or whose w[7:0] is in no row of the map, raises E_BAD_CMD(w[7:0]); any other word is the
command of its row. -/
def Obligations.IllegalWordRaisesBadCmd : Prop :=
  (∀ (s : State) (w : Word), s.Ready → (w.extractLsb' 8 24 ≠ 0 ∨ ¬ (∃ i, opcodeOf i = w.setWidth 8)) →
    memWrite 0x0008 w s = .next (s.failedWith (w.setWidth 8) .badCmd (w.setWidth 8))) ∧
  (∀ (s : State) (w : Word) (i : Instr), w.extractLsb' 8 24 = 0 → opcodeOf i = w.setWidth 8 → memWrite 0x0008 w s = exec i s)

/-- R96: a write to STATUS, busy or not, clears DONE by bit 1 and REJ by bit 3 and does nothing else. -/
def Obligations.StatusWriteClearsDoneAndRej : Prop :=
  ∀ (s : State) (v : Word), memWrite 0x000C v s =
    .next { s with done := if v.getLsbD 1 then false else s.done, rej := if v.getLsbD 3 then false else s.rej }

/-- R158, with R145, R150, R39: when a command accepted with ERR = 0 leaves an error, the error is one R158 lists for it, with that error's code and
class and the command's own opcode, SEQ is idle and DONE is 0; an illegal word can leave only E_BAD_CMD. The codes and classes are written out from R145's
table. -/
def Obligations.ErrorsOfEachCommand : Prop :=
  (∀ (i : Instr) (s t : State), s.seq = .idle → s.err = .none → exec i s = .next t → t.err ≠ .none →
    ∃ e ∈ errorsOf i, t.err.code = e.code ∧ t.err.cls = e.cls ∧ t.err.opcode = opcodeOf i ∧ t.seq = .idle ∧ t.done = false) ∧
  (∀ (w : Word) (why : DecodeError) (s t : State), s.seq = .idle → s.err = .none → decode w = .illegal why →
    memWrite 0x0008 w s = .next t → t.err ≠ .none →
    t.err = ⟨0x30, w.setWidth 8, w.setWidth 8, 4⟩ ∧ t.seq = .idle ∧ t.done = false) ∧
  ([ErrorKind.srcIo, .snkIo, .truncated, .degenerate, .badTag, .treeTooLarge, .codeMiss, .badCmd, .noTree, .countOverflow].map
    (fun e => (e.code, e.cls)) =
    [(0x01, 1), (0x02, 1), (0x10, 2), (0x11, 2), (0x12, 2), (0x13, 2), (0x20, 3), (0x30, 4), (0x31, 4), (0x32, 4)])

/-- R153: an error, once recorded, stays as it is until it is cleared to 0: no step puts another error in its place. -/
def Obligations.RecordedErrorIsSticky : Prop :=
  ∀ s t : State, s.ErrHolds → s.err.code ≠ 0 → step s = .next t → t.err = s.err ∨ t.err = .none

/-- R177, R97, R60, R61: the engine at a ReadIn with IN empty, or at an Emit with no answer, changes nothing however long it waits. What a command has done
when IN runs out before its `End`: FREQ_COUNT (R103) has counted the bytes, PACK (R130, R131) has put their bits, UNPACK (R134, R135) has walked them, and it
waits at its ReadIn. How a stall ends: where the host supplies tokens, or answers, after the command has stopped to wait, and the engine goes on, it
leaves what it leaves when they were there from the start; and so for any word written to CMD. -/
def Obligations.StallsAndTheirEnds : Prop :=
  (∀ (s : State) (op : Byte) (pos : Pos) (todo : List Stage), s.seq = .running op pos todo → s.host = [] → s.pace = none →
      s.inReset = false →
      ((s.inq = [] ∧ (pos = .count ∨ pos = .packRead ∨ pos = .unpackRead ∨ ∃ p, pos = .parse p)) ∨
        (s.sink = [] ∧ s.sinkRest = none ∧ ((∃ n k, pos = .serialize (some n) (k + 1)) ∨ (∃ k, pos = .serialize none (k + 1) ∧ s.stack ≠ []) ∨
          (pos = .packFlush ∧ s.accN ≠ 0) ∨ (∃ b n, pos = .packBits b (n + 1) ∧ s.accN = 7) ∨ ∃ b n, pos = .unpackEmit b n))) →
      step s = .next s) ∧
  (∀ (s : State) (bytes : List Byte), s.Ready → s.CountsAgree → s.inq = bytes.map .byte → s.total.toNat + bytes.length < 2 ^ 32 →
    ∃ t, exec .freqCount s = .next t ∧ (∀ v, (t.freqOf v).toNat = (s.freqOf v).toNat + bytes.count v) ∧ t.CountsAgree ∧
      t = { s.waitingAt 0x11 .count with
        inq := [], inCount := BitVec.ofNat 32 bytes.length, total := s.total + BitVec.ofNat 32 bytes.length, freq := t.freq, nsym := t.nsym }) ∧
  (∀ (s : State) (bytes : List Byte), s.Ready → (∀ b ∈ bytes, s.codeLenOf b ≠ 0) → s.inq = bytes.map .byte →
    s.Accepts ((s.payloadBits bytes).length / 8) →
    exec .pack s = .next { s.waitingAt 0x60 .packRead with
      acc := BitVec.ofNat 8 (bitsValue ((s.payloadBits bytes).drop (8 * ((s.payloadBits bytes).length / 8))))
      accN := BitVec.ofNat 3 ((s.payloadBits bytes).length % 8), inq := [], inCount := BitVec.ofNat 32 bytes.length
      sink := s.sink.drop ((s.payloadBits bytes).length / 8)
      out := s.out ++ (packBytes (s.payloadBits bytes)).take ((s.payloadBits bytes).length / 8)
      outCount := BitVec.ofNat 32 ((s.payloadBits bytes).length / 8) }) ∧
  (∀ (s : State) (tree : CodeTree) (payload : List Byte), s.Ready → s.HasTree tree → s.inq = payload.map .byte →
    s.Accepts (tree.unpacked payload).1.length →
    exec .unpack s = .next { s.waitingAt 0x70 .unpackRead with
      cur := s.nodeAt (tree.pending payload), inq := [], inCount := BitVec.ofNat 32 payload.length
      sink := s.sink.drop (tree.unpacked payload).1.length, out := s.out ++ (tree.unpacked payload).1
      outCount := BitVec.ofNat 32 (tree.unpacked payload).1.length }) ∧
  (∀ (w : Word) (s t : State) (tokens : List Token), s.seq = .idle → s.pace = none → memWrite 0x0008 w s = .next t →
    State.resume { t with inq := t.inq ++ tokens } = memWrite 0x0008 w { s with inq := s.inq ++ tokens }) ∧
  (∀ (w : Word) (s t : State) (answers : List SinkAnswer) (rest : Option SinkAnswer), s.seq = .idle → s.pace = none → s.sinkRest = none →
    memWrite 0x0008 w s = .next t →
    State.resume { t with sink := t.sink ++ answers, sinkRest := rest } =
      memWrite 0x0008 w { s with sink := s.sink ++ answers, sinkRest := rest })

/-! ### Control commands (40_control.md R98, R100) -/

/-- R98: NOP changes nothing but the flags and counts of R92 and R93; written while ERR = 1 it is rejected. -/
def Obligations.NopOnlyFlags : Prop :=
  ∀ s : State, (s.Ready → exec .nop s = .next s.completed) ∧
    (s.seq = .idle → s.err.code ≠ 0 → exec .nop s = .next { s with rej := true })

/-- R100: CLEAR_ERR, with an error recorded or not: ERR <- 0 and the flags of R92 and R93; REJ, the tree and the tables stay. -/
def Obligations.ClearErrClearsRecord : Prop :=
  ∀ s : State, s.seq = .idle → s.pace = none → exec .clearErr s = .next { s.completed with err := ⟨0, 0, 0, 0⟩ }

/-! ### Frequency counter (41_frequency.md) -/

/-- R102. -/
def Obligations.FreqClearZeroesTable : Prop :=
  ∀ s : State, s.Ready → ∃ t, exec .freqClear s = .next t ∧ (∀ v, t.freqOf v = 0) ∧ t.total = 0 ∧ t.nsym = 0 ∧
    t = { s.completed with freq := t.freq, total := t.total, nsym := t.nsym }

/-- R103, R104: a pass of bytes that TOTAL has room for is counted on top of the table; the pass is consumed through its `End`. -/
def Obligations.FreqCountAddsPass : Prop :=
  ∀ (s : State) (bytes : List Byte) (rest : List Token), s.Ready → s.CountsAgree → s.inq = passOf bytes rest →
    s.total.toNat + bytes.length < 2 ^ 32 →
    ∃ t, exec .freqCount s = .next t ∧ (∀ v, (t.freqOf v).toNat = (s.freqOf v).toNat + bytes.count v) ∧ t.CountsAgree ∧
      t = { s.completed with
        inCount := BitVec.ofNat 32 bytes.length, inq := rest, total := s.total + BitVec.ofNat 32 bytes.length
        freq := t.freq, nsym := t.nsym }

/-- R103, R146, R151: a `Fail` token after some counted bytes raises E_SRC_IO; a byte that finds TOTAL at 2^32 - 1 raises E_COUNT_OVERFLOW, is
consumed and not counted. What was counted stays, and TOTAL and NSYM still agree with it (R49). -/
def Obligations.FreqCountErrors : Prop :=
  ∀ (s : State) (bytes : List Byte) (rest : List Token), s.Ready → s.CountsAgree →
    (s.inq = bytes.map .byte ++ .fail :: rest → s.total.toNat + bytes.length < 2 ^ 32 →
      ∃ t, exec .freqCount s = .next t ∧ (∀ v, (t.freqOf v).toNat = (s.freqOf v).toNat + bytes.count v) ∧ t.CountsAgree ∧
        t = { s.failedWith 0x11 .srcIo 0 with
          inCount := BitVec.ofNat 32 bytes.length, inq := rest, total := s.total + BitVec.ofNat 32 bytes.length
          freq := t.freq, nsym := t.nsym }) ∧
    (∀ b, s.inq = bytes.map .byte ++ .byte b :: rest → s.total.toNat + bytes.length = 2 ^ 32 - 1 →
      ∃ t, exec .freqCount s = .next t ∧ (∀ v, (t.freqOf v).toNat = (s.freqOf v).toNat + bytes.count v) ∧ t.CountsAgree ∧
        t = { s.failedWith 0x11 .countOverflow b with
          inCount := BitVec.ofNat 32 (bytes.length + 1), inq := rest, total := 0xFFFFFFFF, freq := t.freq, nsym := t.nsym })

/-! ### Priority queue (42_heap.md) -/

/-- R111, R106, R105: HEAP_BUILD discards the tree and leaves exactly the symbols with a nonzero count in the heap, in heap order (every parent before
its child: of lesser count, or of equal count and lower index), NIL after them. -/
def Obligations.HeapBuildMakesHeap : Prop :=
  ∀ s : State, s.Ready → ∃ t, exec .heapBuild s = .next t ∧
    t.liveHeap.Perm ((symbols.filter (fun v => s.freqOf v != 0)).map leafSlot) ∧
    t.live = (symbols.filter (fun v => s.freqOf v != 0)).length ∧ t.HeapOrdered ∧ t.HeapTailNil ∧
    (∀ j, t.node.get j = ⟨false, 0, 0, 0⟩) ∧
    t = { s.completed with node := t.node, nextInt := 256, root := 511, heap := t.heap, heapSize := t.heapSize }

/-! ### Tree builder (43_tree_builder.md) -/

/-- R114: with HEAP_SIZE of 0 or 1, TREE_STEP changes nothing but the flags. -/
def Obligations.TreeStepOnSmallHeap : Prop :=
  ∀ s : State, s.Ready → s.live < 2 → exec .treeStep s = .next s.completed

/-- R113, R114, R109, R110, R105, R106: on a heap in heap order (R105, written out in weights and indices: `State.Before`) TREE_STEP takes
the least entry as left child and the next one as right child of the
next internal slot, whose weight is their sum, and puts that slot back; the heap stays in order and ROOT is not written. Where the sum
leaves 32 bits the weight is free (log 7). -/
def Obligations.TreeStepMergesTwoLeast : Prop :=
  ∀ s : State, s.Ready → 2 ≤ s.live → s.live ≤ 256 → s.liveHeap.Nodup → 256 ≤ s.nextInt.toNat → s.nextInt.toNat ≤ 510 →
    (∀ n ∈ s.liveHeap, n.toNat < s.nextInt.toNat) → s.HeapOrdered →
    ∃ t a b others j w, exec .treeStep s = .next t ∧ s.liveHeap.Perm (a :: b :: others) ∧
      (∀ n ∈ b :: others, s.Before a n) ∧ (∀ n ∈ others, s.Before b n) ∧
      slot? s.nextInt = some j ∧ t.node = s.node.set j ⟨true, a, b, w⟩ ∧
      ((s.weight a).toNat + (s.weight b).toNat < 2 ^ 32 → w = s.weight a + s.weight b ∧ t.draws = s.draws) ∧
      t.liveHeap.Perm (s.nextInt :: others) ∧ t.live = s.live - 1 ∧ t.HeapOrdered ∧
      t = { s.completed with
        node := t.node, nextInt := s.nextInt + 1, heap := t.heap, heapSize := t.heapSize, draws := t.draws }

/-- R117, R115: TREE_BUILD on the empty heap sets ROOT to NIL and allocates nothing; on a heap whose only entry is internal it makes that entry the
root and changes nothing else. -/
def Obligations.TreeBuildOnFinishedHeap : Prop :=
  ∀ s : State, s.Ready →
    (s.live = 0 → exec .treeBuild s = .next { s.completed with root := 511 }) ∧
    (s.live = 1 → 256 ≤ (s.heapAt 0).toNat → (s.heapAt 0).toNat ≤ 510 →
      exec .treeBuild s = .next { s.completed with root := s.heapAt 0 })

/-- R116: the single-symbol tree: slot 256 with the leaf on both edges and the leaf's own weight; it is the root and the heap's only entry. -/
def Obligations.TreeBuildSingleSymbol : Prop :=
  ∀ (s : State) (v : Byte), s.Ready → s.live = 1 → s.heapAt 0 = leafSlot v → s.nextInt = 256 →
    exec .treeBuild s = .next { s.completed with
      node := s.node.set 0 ⟨true, leafSlot v, leafSlot v, s.freqOf v⟩, nextInt := 257, root := 256, heap := s.heap.set 0 256 }

/-- R115, R118: from a heap of n >= 2 distinct leaves and slot 256 next, TREE_BUILD makes a strict binary tree with exactly those leaves, n - 1
internal nodes and the root left alone in the heap; when the leaves' counts sum below 2^32, that sum is the root's weight. -/
def Obligations.TreeBuildMakesTree : Prop :=
  ∀ (s : State) (vs : List Byte), s.Ready → s.live = vs.length → s.liveHeap = vs.map leafSlot → vs.Nodup → 2 ≤ vs.length →
    s.nextInt = 256 →
    ∃ t tree, exec .treeBuild s = .next t ∧ t.HasTree tree ∧ tree.leaves.Perm vs ∧ tree.internals = vs.length - 1 ∧
      t.nextInt.toNat = 256 + (vs.length - 1) ∧ t.live = 1 ∧ t.heapAt 0 = t.root ∧
      ((vs.map (fun v => (s.freqOf v).toNat)).sum < 2 ^ 32 →
        (t.weight t.root).toNat = (vs.map (fun v => (s.freqOf v).toNat)).sum ∧ t.draws = s.draws) ∧
      t = { s.completed with
        node := t.node, nextInt := t.nextInt, root := t.root, heap := t.heap, heapSize := t.heapSize, draws := t.draws }

/-- R114, corner case: TREE_BUILD after a TREE_STEP gives what TREE_BUILD alone gives. -/
def Obligations.TreeStepThenBuildIsBuild : Prop :=
  ∀ s t u : State, s.Ready → exec .treeStep s = .next t → exec .treeBuild s = .next u → exec .treeBuild t = .next u

/-! ### Code table (44_code_table.md) -/

/-- R119, R120, R34: from a tree, CODES_DERIVE gives every symbol the path of its first position in pre-order, as a length and a right-aligned
value, and 0 to every other symbol; with ROOT = NIL every entry becomes 0. -/
def Obligations.CodesDeriveRecordsPaths : Prop :=
  (∀ (s : State) (tree : CodeTree), s.Ready → s.HasTree tree →
    ∃ t, exec .codesDerive s = .next t ∧
      (∀ v, match tree.codeOf v with
        | some bits => 0 < bits.length ∧ bits.length ≤ 255 ∧ (t.codeLenOf v).toNat = bits.length ∧ t.tableCode v = bits ∧
            (t.codeBitsOf v).toNat = bitsValue bits
        | none => t.codeLenOf v = 0 ∧ t.codeBitsOf v = 0) ∧
      t = { s.completed with codeLen := t.codeLen, codeBits := t.codeBits, stack := t.stack }) ∧
  (∀ s : State, s.Ready → s.root = 511 →
    ∃ t, exec .codesDerive s = .next t ∧ (∀ v, t.codeLenOf v = 0 ∧ t.codeBitsOf v = 0) ∧
      t = { s.completed with codeLen := t.codeLen, codeBits := t.codeBits, stack := t.stack })

/-- R122: in the table CODES_DERIVE makes from a tree, no code is a prefix of another symbol's code. -/
def Obligations.DerivedCodesArePrefixFree : Prop :=
  ∀ (s t : State) (tree : CodeTree) (u v : Byte), s.Ready → s.HasTree tree → exec .codesDerive s = .next t → u ≠ v →
    t.codeLenOf u ≠ 0 → t.codeLenOf v ≠ 0 → ¬ (t.tableCode u <+: t.tableCode v)

/-! ### Tree codec (45_tree_codec.md) -/

/-- R123, R82: with a sink that accepts, TREE_SERIALIZE emits the tree's header; with no tree it emits nothing. -/
def Obligations.TreeSerializeEmitsHeader : Prop :=
  (∀ (s : State) (tree : CodeTree), s.Ready → s.HasTree tree → s.Accepts tree.header.length →
    ∃ t, exec .treeSerialize s = .next t ∧
      t = { s.completed with
        out := s.out ++ tree.header, outCount := BitVec.ofNat 32 tree.header.length, sink := s.sink.drop tree.header.length
        stack := t.stack }) ∧
  (∀ s : State, s.Ready → s.root = 511 → exec .treeSerialize s = .next s.completed)

/-- R16, R61, R146, R150, R152: when the sink fails an offered byte, the command raises E_SNK_IO and exactly the bytes before it stay emitted.
TREE_SERIALIZE (R123): after k bytes of the header. PACK (R130, R131): at the eighth bit of a payload byte, in the middle of the code of b: ACC and ACC_N
keep the seven bits before it; and at the partial byte of FlushPartial (R132), which ACC and ACC_N keep. UNPACK (R134, R135): at a byte of the walk,
where CUR is left at its leaf. In all five commands that emit, COMPRESS and DECOMPRESS among them (R139, R141): the bytes are the first k of those that a
sink that accepts every offer gets, whether the command then completes, raises or waits; CUR is at the leaf in UNPACK and DECOMPRESS; ACC holds the
upper ACC_N bits of the failed byte in PACK and COMPRESS, or is untouched where COMPRESS fails in the header
of the tree it has built, before the payload. -/
def Obligations.SinkFailureRaisesSnkIo : Prop :=
  (∀ (s : State) (tree : CodeTree) (k : Nat), s.Ready → s.HasTree tree → k < tree.header.length → s.FailsAt k →
    ∃ t, exec .treeSerialize s = .next t ∧
      t = { s.failedWith 0x50 .snkIo 0 with
        out := s.out ++ tree.header.take k, outCount := BitVec.ofNat 32 k, sink := s.sink.drop (k + 1), stack := t.stack }) ∧
  (∀ (s : State) (bytes : List Byte) (b : Byte) (k : Nat) (rest : List Token), s.Ready →
    (∀ c ∈ bytes ++ [b], s.codeLenOf c ≠ 0) → s.inq = (bytes ++ [b]).map .byte ++ rest → s.FailsAt k →
    (s.payloadBits bytes).length < 8 * (k + 1) → 8 * (k + 1) ≤ (s.payloadBits (bytes ++ [b])).length →
    exec .pack s = .next { s.failedWith 0x60 .snkIo 0 with
      acc := BitVec.ofNat 8 (bitsValue (((s.payloadBits (bytes ++ [b])).drop (8 * k)).take 7)), accN := 7
      inq := rest, inCount := BitVec.ofNat 32 (bytes.length + 1), sink := s.sink.drop (k + 1)
      out := s.out ++ (packBytes (s.payloadBits (bytes ++ [b]))).take k, outCount := BitVec.ofNat 32 k }) ∧
  (∀ (s : State) (bytes : List Byte) (k : Nat) (rest : List Token), s.Ready →
    (∀ c ∈ bytes, s.codeLenOf c ≠ 0) → s.inq = passOf bytes rest → s.FailsAt k →
    k = (s.payloadBits bytes).length / 8 → (s.payloadBits bytes).length % 8 ≠ 0 →
    exec .pack s = .next { s.failedWith 0x60 .snkIo 0 with
      acc := BitVec.ofNat 8 (bitsValue ((s.payloadBits bytes).drop (8 * k))), accN := BitVec.ofNat 3 ((s.payloadBits bytes).length % 8)
      inq := rest, inCount := BitVec.ofNat 32 bytes.length, sink := s.sink.drop (k + 1)
      out := s.out ++ (packBytes (s.payloadBits bytes)).take k, outCount := BitVec.ofNat 32 k }) ∧
  (∀ (s : State) (tree : CodeTree) (payload : List Byte) (b v : Byte) (k : Nat) (rest : List Token), s.Ready → s.HasTree tree →
    s.inq = (payload ++ [b]).map .byte ++ rest → s.FailsAt k → (tree.unpacked payload).1.length ≤ k →
    (tree.unpacked (payload ++ [b])).1[k]? = some v →
    exec .unpack s = .next { s.failedWith 0x70 .snkIo 0 with
      cur := leafSlot v, inq := rest, inCount := BitVec.ofNat 32 (payload.length + 1), sink := s.sink.drop (k + 1)
      out := s.out ++ (tree.unpacked (payload ++ [b])).1.take k, outCount := BitVec.ofNat 32 k }) ∧
  (∀ (i : Instr) (s u : State) (emitted : List Byte) (k : Nat) (v : Byte), s.Ready → s.FailsAt k → exec i s.accepting = .next u →
    u.out = s.out ++ emitted → emitted[k]? = some v →
    ∃ t, exec i s = .next t ∧ t.seq = .idle ∧ t.done = false ∧ t.err = ⟨0x02, opcodeOf i, 0, 1⟩ ∧ t.out = s.out ++ emitted.take k ∧
      t.outCount = BitVec.ofNat 32 k ∧ t.sink = s.sink.drop (k + 1) ∧
      (i = .unpack ∨ i = .decompress → t.cur = leafSlot v) ∧
      (i = .pack → t.accN ≠ 0 ∧ t.acc = v >>> (8 - t.accN.toNat)) ∧
      (i = .compress → ∃ tree, u.HasTree tree ∧ t.HasTree tree ∧
        (k < tree.header.length → t.acc = s.acc ∧ t.accN = s.accN) ∧
        (tree.header.length ≤ k → t.accN ≠ 0 ∧ t.acc = v >>> (8 - t.accN.toNat))))

/-- R124, R125, R128, R129, R82: the header of any tree of at most 255 internal nodes, whatever its leaf values, is consumed exactly and becomes the
current tree, at slot 256, with weights 0; the heap is emptied, FREQ and the code table are not touched. -/
def Obligations.TreeDeserializeBuildsTree : Prop :=
  ∀ (s : State) (tree : CodeTree) (rest : List Token), s.Ready → tree.isNode = true → tree.internals ≤ 255 →
    s.inq = tree.header.map .byte ++ rest →
    ∃ t, exec .treeDeserialize s = .next t ∧ t.HasTree tree ∧ (∀ j, (t.node.get j).freq = 0) ∧
      (∀ i, t.heap.get i = 511) ∧
      t = { s.completed with
        node := t.node, nextInt := BitVec.ofNat 9 (256 + tree.internals), root := 256, heap := t.heap, heapSize := 0
        inq := rest, inCount := BitVec.ofNat 32 tree.header.length, stack := t.stack }

/-- R126: an `End` as the first token is the empty artifact: consumed, EMPTY_ART = 1, no tree, no error. -/
def Obligations.TreeDeserializeEmptyArtifact : Prop :=
  ∀ (s : State) (rest : List Token), s.Ready → s.inq = .endOfPass :: rest →
    ∃ t, exec .treeDeserialize s = .next t ∧ (∀ j, t.node.get j = ⟨false, 0, 0, 0⟩) ∧ (∀ i, t.heap.get i = 511) ∧
      t = { s.completed with
        node := t.node, nextInt := 256, root := 511, heap := t.heap, heapSize := 0, emptyArt := true, inq := rest, stack := t.stack }

/-- R83, R125 to R128: on every token sequence TREE_DESERIALIZE ends as counting the subtrees still to read ends: the same error with the same
INFO, or success, or a wait, at the same token. After an error ROOT is NIL and HEAP_SIZE 0. -/
def Obligations.TreeDeserializeFollowsCount : Prop :=
  ∀ s : State, s.Ready → ∃ t, exec .treeDeserialize s = .next t ∧
    match headerEnd true 1 0 s.inq with
    | .starved => t.busy = true ∧ t.inq = [] ∧ t.root = 511
    | .empty rest => t.seq = .idle ∧ t.done = true ∧ t.emptyArt = true ∧ t.err = s.err ∧ t.inq = rest ∧ t.root = 511
    | .bad e info rest =>
        t.seq = .idle ∧ t.done = false ∧ t.err = ⟨e.code, 0x51, info, e.cls⟩ ∧ t.inq = rest ∧ t.root = 511 ∧ t.live = 0 ∧ t.out = s.out
    | .complete rest => t.seq = .idle ∧ t.done = true ∧ t.err = s.err ∧ t.inq = rest ∧ t.root = 256 ∧ ∃ tree, t.HasTree tree

/-! ### Bit packer (46_bit_packer.md) -/

/-- R131: PutBit below seven bits only fills the accumulator; the eighth bit offers the byte with the oldest bit on top, clears the accumulator
when the sink accepts, and leaves it when the sink fails. -/
def Obligations.PutBitFillsThenEmits : Prop :=
  ∀ (s : State) (x : Bool), s.AccBounded →
    (s.accN ≠ 7 → ∃ t, s.putBit x = .accepted t ∧ t.accN.toNat = s.accN.toNat + 1 ∧ t.acc.toNat = 2 * s.acc.toNat + x.toNat ∧
      t.AccBounded ∧ t = { s with acc := t.acc, accN := t.accN }) ∧
    (s.accN = 7 → s.pace = none → s.answerAt 0 = some .ok →
      s.putBit x = .accepted { s with
        acc := 0, accN := 0, sink := s.sink.drop 1, outCount := s.outCount + 1
        out := s.out ++ [BitVec.ofNat 8 (2 * s.acc.toNat + x.toNat)] }) ∧
    (s.accN = 7 → s.pace = none → s.answerAt 0 = some .fail → s.putBit x = .failed { s with sink := s.sink.drop 1 })

/-- R130 to R132, R85, R86: a pass of bytes that all have codes is packed MSB first, the last byte filled with zero pad bits; ACC and ACC_N end
at 0. -/
def Obligations.PackEmitsPayload : Prop :=
  ∀ (s : State) (bytes : List Byte) (rest : List Token), s.Ready →
    (∀ b ∈ bytes, s.codeLenOf b ≠ 0) → s.inq = passOf bytes rest → s.Accepts (packBytes (s.payloadBits bytes)).length →
    exec .pack s = .next { s.completed with
      acc := 0, accN := 0, inq := rest, inCount := BitVec.ofNat 32 bytes.length
      sink := s.sink.drop (packBytes (s.payloadBits bytes)).length
      out := s.out ++ packBytes (s.payloadBits bytes), outCount := BitVec.ofNat 32 (packBytes (s.payloadBits bytes)).length }

/-- R133, R130, R152: a byte with no code raises E_CODE_MISS before any bit of it is put: the full bytes before it are out and the other bits stay
in the accumulator. -/
def Obligations.PackCodeMiss : Prop :=
  ∀ (s : State) (bytes : List Byte) (b : Byte) (rest : List Token), s.Ready →
    (∀ c ∈ bytes, s.codeLenOf c ≠ 0) → s.codeLenOf b = 0 → s.inq = bytes.map .byte ++ .byte b :: rest →
    s.Accepts ((s.payloadBits bytes).length / 8) →
    ∃ t, exec .pack s = .next t ∧ t.accN.toNat = (s.payloadBits bytes).length % 8 ∧
      t.acc.toNat = bitsValue ((s.payloadBits bytes).drop (8 * ((s.payloadBits bytes).length / 8))) ∧
      t = { s.failedWith 0x60 .codeMiss b with
        acc := t.acc, accN := t.accN, inq := rest, inCount := BitVec.ofNat 32 (bytes.length + 1)
        sink := s.sink.drop ((s.payloadBits bytes).length / 8)
        out := s.out ++ (packBytes (s.payloadBits bytes)).take ((s.payloadBits bytes).length / 8)
        outCount := BitVec.ofNat 32 ((s.payloadBits bytes).length / 8) }

/-! ### Bit unpacker (47_bit_unpacker.md) -/

/-- R134 to R136: UNPACK walks every bit of the pass, emits a byte at each leaf, CUR ends where the bits
since the last leaf lead, and MIDWALK says whether that is below the root. -/
def Obligations.UnpackWalksTree : Prop :=
  ∀ (s : State) (tree : CodeTree) (payload : List Byte) (rest : List Token), s.Ready → s.HasTree tree →
    s.inq = passOf payload rest → s.Accepts (tree.unpacked payload).1.length →
    ∃ t, exec .unpack s = .next t ∧ t.midwalk = (tree.unpacked payload).2 ∧ (t.midwalk = false → t.cur = s.root) ∧
      t.cur = s.nodeAt (tree.pending payload) ∧
      t = { s.completed with
        cur := t.cur, midwalk := t.midwalk, inq := rest, inCount := BitVec.ofNat 32 payload.length
        sink := s.sink.drop (tree.unpacked payload).1.length
        out := s.out ++ (tree.unpacked payload).1, outCount := BitVec.ofNat 32 (tree.unpacked payload).1.length }

/-- R138: UNPACK with ROOT = NIL raises E_NO_TREE(0) before it reads any token; DECOMPRESS never raises it. -/
def Obligations.UnpackWithoutTree : Prop :=
  (∀ s : State, s.Ready → s.root = 511 → exec .unpack s = .next (s.failedWith 0x70 .noTree 0)) ∧
  (∀ s t : State, s.seq = .idle → s.err = .none → exec .decompress s = .next t → t.err.code ≠ 0x31)

/-- R146, R150, R151, R152: a `Fail` as the first token raises E_SRC_IO(0) under the command's own opcode in every command that reads IN, and is consumed. After
some bytes (in FREQ_COUNT: FreqCountErrors, in a header: TreeDeserializeFollowsCount): in PACK the full payload bytes before it are out and the other bits
stay in ACC and ACC_N (R130, R131); in UNPACK and in the payload of DECOMPRESS the walked bytes are out and CUR stays where the walk stands (R134, R135); in
pass 2 of COMPRESS the header and the full payload bytes are out (R139), and nothing where pass 1 was empty. The rest of IN stays. -/
def Obligations.FailTokenRaisesSrcIo : Prop :=
  (∀ (i : Instr) (s : State) (rest : List Token), s.Ready → s.inq = .fail :: rest →
      (i = .freqCount ∨ i = .treeDeserialize ∨ i = .pack ∨ i = .compress ∨ i = .decompress ∨ (i = .unpack ∧ s.root ≠ 511)) →
      ∃ t, exec i s = .next t ∧ t.seq = .idle ∧ t.done = false ∧ t.err = ⟨0x01, opcodeOf i, 0, 1⟩ ∧ t.inq = rest ∧ t.out = s.out) ∧
  (∀ (s : State) (bytes : List Byte) (rest : List Token), s.Ready → (∀ b ∈ bytes, s.codeLenOf b ≠ 0) →
    s.inq = bytes.map .byte ++ .fail :: rest → s.Accepts ((s.payloadBits bytes).length / 8) →
    exec .pack s = .next { s.failedWith 0x60 .srcIo 0 with
      acc := BitVec.ofNat 8 (bitsValue ((s.payloadBits bytes).drop (8 * ((s.payloadBits bytes).length / 8))))
      accN := BitVec.ofNat 3 ((s.payloadBits bytes).length % 8), inq := rest, inCount := BitVec.ofNat 32 bytes.length
      sink := s.sink.drop ((s.payloadBits bytes).length / 8)
      out := s.out ++ (packBytes (s.payloadBits bytes)).take ((s.payloadBits bytes).length / 8)
      outCount := BitVec.ofNat 32 ((s.payloadBits bytes).length / 8) }) ∧
  (∀ (s : State) (tree : CodeTree) (payload : List Byte) (rest : List Token), s.Ready → s.HasTree tree →
    s.inq = payload.map .byte ++ .fail :: rest → s.Accepts (tree.unpacked payload).1.length →
    exec .unpack s = .next { s.failedWith 0x70 .srcIo 0 with
      cur := s.nodeAt (tree.pending payload), inq := rest, inCount := BitVec.ofNat 32 payload.length
      sink := s.sink.drop (tree.unpacked payload).1.length, out := s.out ++ (tree.unpacked payload).1
      outCount := BitVec.ofNat 32 (tree.unpacked payload).1.length }) ∧
  (∀ (s : State) (tree : CodeTree) (payload : List Byte) (rest : List Token), s.Ready → tree.isNode = true → tree.internals ≤ 255 →
    s.inq = (tree.header ++ payload).map .byte ++ .fail :: rest → s.Accepts (tree.unpacked payload).1.length →
    ∃ t, exec .decompress s = .next t ∧ t.HasTree tree ∧ t.root = 256 ∧ t.live = 0 ∧
      t = { s.failedWith 0x81 .srcIo 0 with
        node := t.node, nextInt := t.nextInt, root := t.root, heap := t.heap, heapSize := t.heapSize, stack := t.stack
        cur := t.nodeAt (tree.pending payload), inq := rest, inCount := BitVec.ofNat 32 (tree.header ++ payload).length
        sink := s.sink.drop (tree.unpacked payload).1.length, out := s.out ++ (tree.unpacked payload).1
        outCount := BitVec.ofNat 32 (tree.unpacked payload).1.length }) ∧
  (∀ (s : State) (input bytes : List Byte) (rest : List Token), s.Ready → input.length < 2 ^ 32 → input ≠ [] → (∀ b ∈ bytes, b ∈ input) →
    s.inq = passOf input (bytes.map .byte ++ .fail :: rest) → s.Accepts (768 + 32 * bytes.length) →
    ∃ t tree emitted, exec .compress s = .next t ∧ t.HasTree tree ∧
      emitted = tree.header ++ (packBytes (t.payloadBits bytes)).take ((t.payloadBits bytes).length / 8) ∧
      t.seq = .idle ∧ t.done = false ∧ t.err = ⟨0x01, 0x80, 0, 1⟩ ∧ t.inq = rest ∧ t.out = s.out ++ emitted ∧
      t.accN.toNat = (t.payloadBits bytes).length % 8 ∧
      t.acc.toNat = bitsValue ((t.payloadBits bytes).drop (8 * ((t.payloadBits bytes).length / 8))) ∧
      t.inCount = BitVec.ofNat 32 (input.length + bytes.length) ∧ t.outCount = BitVec.ofNat 32 emitted.length ∧ t.cur = s.cur) ∧
  (∀ (s : State) (rest : List Token), s.Ready → s.inq = .endOfPass :: .fail :: rest →
    ∃ t, exec .compress s = .next t ∧ t.seq = .idle ∧ t.done = false ∧ t.err = ⟨0x01, 0x80, 0, 1⟩ ∧ t.inq = rest ∧ t.out = s.out ∧
      t.root = 511 ∧ t.acc = 0 ∧ t.accN = 0 ∧ t.inCount = 0 ∧ t.outCount = 0)

/-! ### Composites (48_composite.md) -/

/-- R140: COMPRESS of the empty input consumes two `End` tokens, emits nothing and completes with no tree, no counts and no codes; a byte in pass 2 after
an empty pass 1 raises E_CODE_MISS at that byte. -/
def Obligations.CompressEmptyInput : Prop :=
  (∀ (s : State) (b : Byte) (rest : List Token), s.Ready → s.inq = .endOfPass :: .byte b :: rest →
    ∃ t, exec .compress s = .next t ∧ t.seq = .idle ∧ t.done = false ∧ t.err = ⟨0x20, 0x80, b, 3⟩ ∧ t.inq = rest ∧ t.out = s.out ∧
      t.inCount = 1 ∧ t.outCount = 0 ∧ t.root = 511) ∧
  (∀ (s : State) (rest : List Token), s.Ready → s.inq = .endOfPass :: .endOfPass :: rest →
    ∃ t, exec .compress s = .next t ∧ t.root = 511 ∧ t.live = 0 ∧ t.total = 0 ∧ t.nsym = 0 ∧
      (∀ v, t.freqOf v = 0 ∧ t.codeLenOf v = 0 ∧ t.codeBitsOf v = 0) ∧ t.acc = 0 ∧ t.accN = 0 ∧
      t = { s.completed with
        inq := rest, freq := t.freq, total := t.total, nsym := t.nsym, node := t.node, nextInt := t.nextInt, root := t.root
        heap := t.heap, heapSize := t.heapSize, codeLen := t.codeLen, codeBits := t.codeBits, acc := t.acc, accN := t.accN
        stack := t.stack })

/-- R141, R124, R134: DECOMPRESS of a header and a payload builds the tree and emits what the walk emits; it touches neither FREQ nor the code
table. -/
def Obligations.DecompressDecodesArtifact : Prop :=
  ∀ (s : State) (tree : CodeTree) (payload : List Byte) (rest : List Token), s.Ready →
    tree.isNode = true → tree.internals ≤ 255 → s.inq = passOf (tree.header ++ payload) rest →
    s.Accepts (tree.unpacked payload).1.length →
    ∃ t, exec .decompress s = .next t ∧ t.HasTree tree ∧ t.root = 256 ∧ t.live = 0 ∧ t.midwalk = (tree.unpacked payload).2 ∧
      t = { s.completed with
        node := t.node, nextInt := t.nextInt, root := t.root, heap := t.heap, heapSize := t.heapSize, cur := t.cur, midwalk := t.midwalk
        stack := t.stack, inq := rest, inCount := BitVec.ofNat 32 (tree.header ++ payload).length
        sink := s.sink.drop (tree.unpacked payload).1.length
        out := s.out ++ (tree.unpacked payload).1, outCount := BitVec.ofNat 32 (tree.unpacked payload).1.length }

/-- R143: COMPRESS leaves what its seven sub-commands leave when each is accepted after the one before completed, but that IN_COUNT and OUT_COUNT count
the whole composite. Where a sub-command raises, COMPRESS raises in the same state with its own opcode in ERR.OPCODE; where one waits, COMPRESS waits
there. -/
def Obligations.CompressEqualsSequence : Prop :=
  (∀ (s t : State) (n m : Word), s.Ready → Completes compressCommands s n m t →
    exec .compress s = .next { t with inCount := n, outCount := m }) ∧
  (∀ (s s1 t : State) (before later : List Instr) (i : Instr) (n m : Word), s.Ready → before ++ i :: later = compressCommands →
    Completes before s n m s1 → exec i s1 = .next t → t.done = false →
    exec .compress s = .next (t.inComposite 0x80 n m (compressRest.drop before.length)))

/-- R143: DECOMPRESS leaves what TREE_DESERIALIZE, followed by UNPACK unless EMPTY_ART = 1, leaves, but for the counts of the whole composite. Where
either of them raises, DECOMPRESS raises in the same state with its own opcode in ERR.OPCODE; where one waits, DECOMPRESS waits there. -/
def Obligations.DecompressEqualsSequence : Prop :=
  (∀ s t : State, s.Ready → exec .treeDeserialize s = .next t → t.done = false →
    exec .decompress s = .next (t.inComposite 0x81 0 0 decompressRest)) ∧
  (∀ (s s1 : State) (n m : Word), s.Ready → Completes [.treeDeserialize] s n m s1 →
    (s1.emptyArt = true → exec .decompress s = .next s1) ∧
    (∀ t, s1.emptyArt = false → exec .unpack s1 = .next t → exec .decompress s = .next (t.inComposite 0x81 n m [])))

/-- R142, R137, R139: COMPRESS of any input fed twice completes; DECOMPRESS of its artifact, in any block, completes and emits the input followed by the
phantom bytes the zero pad bits decode to: floor(p / d) copies of the leftmost leaf, at depth d, for p pad bits. -/
def Obligations.CompressThenDecompress : Prop :=
  ∀ (s u : State) (input : List Byte) (rest rest' : List Token), s.Ready → u.Ready → input.length < 2 ^ 32 →
    s.inq = passOf input (passOf input rest) → s.Accepts (768 + 32 * input.length) →
    ∃ t artifact, exec .compress s = .next t ∧ t.seq = .idle ∧ t.done = true ∧ t.err = s.err ∧ t.inq = rest ∧
      t.out = s.out ++ artifact ∧ t.inCount = BitVec.ofNat 32 (2 * input.length) ∧ t.outCount = BitVec.ofNat 32 artifact.length ∧
      (u.inq = passOf artifact rest' → u.Accepts (256 * input.length) →
        ∃ v, exec .decompress u = .next v ∧ v.seq = .idle ∧ v.done = true ∧ v.err = u.err ∧ v.inq = rest' ∧
          (input = [] → artifact = [] ∧ v.out = u.out ∧ v.emptyArt = true) ∧
          (input ≠ [] → ∃ tree pad, t.HasTree tree ∧ pad = (8 - (t.payloadBits input).length % 8) % 8 ∧
            v.out = u.out ++ input ++ List.replicate (pad / tree.leftmost.2) tree.leftmost.1 ∧
            v.midwalk = decide (pad % tree.leftmost.2 ≠ 0)))

/-! ### Frames: what a command leaves unchanged whenever exec answers a next state -/

/-- Commands that touch no stream and raise nothing (R98, R100, R102, R111, R114, R115, R119): ERR changes only in CLEAR_ERR, ROOT not in TREE_STEP,
the code table only in CODES_DERIVE, FREQ only in FREQ_CLEAR. -/
def Obligations.TableCommandFrames : Prop :=
  ∀ s t : State,
    (exec .nop s = .next t → t = { s with
      seq := t.seq, done := t.done, rej := t.rej, emptyArt := t.emptyArt, midwalk := t.midwalk, inCount := t.inCount
      outCount := t.outCount, pace := t.pace }) ∧
    (exec .clearErr s = .next t → t = { s with
      seq := t.seq, done := t.done, rej := t.rej, emptyArt := t.emptyArt, midwalk := t.midwalk, inCount := t.inCount
      outCount := t.outCount, pace := t.pace, err := t.err }) ∧
    (exec .freqClear s = .next t → t = { s with
      seq := t.seq, done := t.done, rej := t.rej, emptyArt := t.emptyArt, midwalk := t.midwalk, inCount := t.inCount
      outCount := t.outCount, pace := t.pace, freq := t.freq, total := t.total, nsym := t.nsym }) ∧
    (exec .heapBuild s = .next t → t = { s with
      seq := t.seq, done := t.done, rej := t.rej, emptyArt := t.emptyArt, midwalk := t.midwalk, inCount := t.inCount
      outCount := t.outCount, pace := t.pace, node := t.node, nextInt := t.nextInt, root := t.root, heap := t.heap
      heapSize := t.heapSize }) ∧
    (exec .treeStep s = .next t → t = { s with
      seq := t.seq, done := t.done, rej := t.rej, emptyArt := t.emptyArt, midwalk := t.midwalk, inCount := t.inCount
      outCount := t.outCount, pace := t.pace, node := t.node, nextInt := t.nextInt, heap := t.heap, heapSize := t.heapSize
      draws := t.draws }) ∧
    (exec .treeBuild s = .next t → t = { s with
      seq := t.seq, done := t.done, rej := t.rej, emptyArt := t.emptyArt, midwalk := t.midwalk, inCount := t.inCount
      outCount := t.outCount, pace := t.pace, node := t.node, nextInt := t.nextInt, root := t.root, heap := t.heap
      heapSize := t.heapSize, draws := t.draws }) ∧
    (exec .codesDerive s = .next t → t = { s with
      seq := t.seq, done := t.done, rej := t.rej, emptyArt := t.emptyArt, midwalk := t.midwalk, inCount := t.inCount
      outCount := t.outCount, pace := t.pace, codeLen := t.codeLen, codeBits := t.codeBits, stack := t.stack })

/-- Commands that read IN or emit to OUT, whether they complete, raise or wait (R103, R123, R124, R130, R134; R60, R61): each writes its own
registers, and only the six of R60 consume IN, only the five of R61 emit. -/
def Obligations.StreamCommandFrames : Prop :=
  ∀ s t : State,
    (exec .freqCount s = .next t → t = { s with
      seq := t.seq, done := t.done, rej := t.rej, emptyArt := t.emptyArt, midwalk := t.midwalk, err := t.err, inCount := t.inCount
      outCount := t.outCount, pace := t.pace, inq := t.inq, freq := t.freq, total := t.total, nsym := t.nsym }) ∧
    (exec .treeSerialize s = .next t → t = { s with
      seq := t.seq, done := t.done, rej := t.rej, emptyArt := t.emptyArt, midwalk := t.midwalk, err := t.err, inCount := t.inCount
      outCount := t.outCount, pace := t.pace, sink := t.sink, out := t.out, stack := t.stack }) ∧
    (exec .treeDeserialize s = .next t → t = { s with
      seq := t.seq, done := t.done, rej := t.rej, emptyArt := t.emptyArt, midwalk := t.midwalk, err := t.err, inCount := t.inCount
      outCount := t.outCount, pace := t.pace, inq := t.inq, node := t.node, nextInt := t.nextInt, root := t.root, heap := t.heap
      heapSize := t.heapSize, stack := t.stack }) ∧
    (exec .pack s = .next t → t = { s with
      seq := t.seq, done := t.done, rej := t.rej, emptyArt := t.emptyArt, midwalk := t.midwalk, err := t.err, inCount := t.inCount
      outCount := t.outCount, pace := t.pace, inq := t.inq, sink := t.sink, out := t.out, acc := t.acc, accN := t.accN }) ∧
    (exec .unpack s = .next t → t = { s with
      seq := t.seq, done := t.done, rej := t.rej, emptyArt := t.emptyArt, midwalk := t.midwalk, err := t.err, inCount := t.inCount
      outCount := t.outCount, pace := t.pace, inq := t.inq, sink := t.sink, out := t.out, cur := t.cur })

/-- The composites (R139, R141): COMPRESS leaves CUR, DECOMPRESS leaves FREQ, TOTAL, NSYM, the code table, ACC and ACC_N. -/
def Obligations.CompositeCommandFrames : Prop :=
  ∀ s t : State,
    (exec .compress s = .next t → t.cur = s.cur ∧ t.inReset = s.inReset ∧ t.sinkRest = s.sinkRest ∧ t.host = s.host ∧ t.busData = s.busData) ∧
    (exec .decompress s = .next t → t = { s with
      seq := t.seq, done := t.done, rej := t.rej, emptyArt := t.emptyArt, midwalk := t.midwalk, err := t.err, inCount := t.inCount
      outCount := t.outCount, pace := t.pace, inq := t.inq, sink := t.sink, out := t.out, node := t.node, nextInt := t.nextInt
      root := t.root, heap := t.heap, heapSize := t.heapSize, stack := t.stack, cur := t.cur })

/-- R60, R61, R152: a command only takes tokens from the front of IN and only appends to OUT; no step takes back an emitted byte. -/
def Obligations.StreamsOnlyMoveForward : Prop :=
  (∀ (i : Instr) (s t : State), exec i s = .next t → t.inq <:+ s.inq ∧ s.out <+: t.out) ∧
    ∀ s t : State, step s = .next t → s.out <+: t.out

/-! ### The register space (10_state.md R23, R39, R41 to R47; 20_memory.md R53 to R58) -/

/-- R41: the offset of every register and window entry, as the map gives it, and each names that entry and nothing else. -/
def Obligations.RegisterMapRoundTrip : Prop :=
  ([Reg.id, .version, .cmd, .status, .err, .total, .nsym, .root, .heapSize, .nextInt, .inCount, .outCount, .packState, .walk].map Reg.offset =
    [0x0000, 0x0004, 0x0008, 0x000C, 0x0010, 0x0014, 0x0018, 0x001C, 0x0020, 0x0024, 0x0028, 0x002C, 0x0030, 0x0034]) ∧
  (∀ v : Fin 256, (Reg.freq v).offset.toNat = 0x0400 + 4 * v.val ∧ (Reg.heap v).offset.toNat = 0x0800 + 4 * v.val ∧
    (Reg.codeLen v).offset.toNat = 0x1400 + 4 * v.val) ∧
  (∀ j : Fin 255, (Reg.nodeLink j).offset.toNat = 0x0C00 + 4 * j.val ∧ (Reg.nodeFreq j).offset.toNat = 0x1000 + 4 * j.val) ∧
  (∀ (v : Fin 256) (w : Fin 8), (Reg.codeBits v w).offset.toNat = 0x2000 + 32 * v.val + 4 * w.val) ∧
  (∀ r : Reg, regAt r.offset = some r) ∧ ∀ (a : Offset) (r : Reg), regAt a = some r → r.offset = a

/-- R54, R55: a misaligned access of any offset, and an aligned one of a reserved offset, reads 0 or is ignored; neither changes any state of the
block. That the read returns 0 while BUSY = 1 too is log 9's (DEDUCED). -/
def Obligations.MisalignedAndReservedAccess : Prop :=
  ∀ (s : State) (a : Offset) (v : Word),
    (a.toNat % 4 ≠ 0 ∨ (0x0038 ≤ a.toNat ∧ a.toNat ≤ 0x03FC) ∨ a.toNat = 0x0FFC ∨ a.toNat = 0x13FC ∨
      (0x1800 ≤ a.toNat ∧ a.toNat ≤ 0x1FFC)) →
    s.memRead a = { s with busData := 0 } ∧ memWrite a v s = .next s

/-- R56: the host writes CMD and STATUS and nothing else, busy or not (R67); CMD reads 0. That it reads 0 while BUSY = 1 too is log 9's (DEDUCED). -/
def Obligations.OnlyCmdAndStatusWritable : Prop :=
  ∀ (s : State) (a : Offset) (v : Word), (a ≠ 0x0008 → a ≠ 0x000C → memWrite a v s = .next s) ∧ s.memRead 0x0008 = { s with busData := 0 }

/-- R58, R57: when BUSY = 0 a read returns the register's value; while BUSY = 1 those of STATUS, ERR, IN_COUNT, OUT_COUNT, ID and VERSION do, and a
read of any other register or window entry returns a free word, drawn anew: the form of that clause is the model's choice (log 6). No read changes the
block. -/
def Obligations.ReadsExactOrFree : Prop :=
  ∀ (s : State) (r : Reg),
    (s.busy = false → s.memRead r.offset = { s with busData := s.readReg r }) ∧
    (s.busy = true → r ∈ [Reg.status, Reg.err, Reg.inCount, Reg.outCount, Reg.id, Reg.version] →
      s.memRead r.offset = { s with busData := s.readReg r }) ∧
    (s.busy = true → r ∉ [Reg.status, Reg.err, Reg.inCount, Reg.outCount, Reg.id, Reg.version, Reg.cmd] →
      s.memRead r.offset = { s with busData := Config.freeWord s.draws, draws := s.draws + 1 })

/-- R23, R25, R26: the STATUS word's bits. -/
def Obligations.StatusWordFields : Prop :=
  ∀ s : State,
    (s.readReg .status).getLsbD 0 = s.busy ∧ (s.readReg .status).getLsbD 1 = s.done ∧
    (s.readReg .status).getLsbD 2 = decide (s.err.code ≠ 0) ∧ (s.readReg .status).getLsbD 3 = s.rej ∧
    (s.readReg .status).getLsbD 4 = decide (s.root ≠ 511) ∧ (s.readReg .status).getLsbD 5 = s.emptyArt ∧
    (s.readReg .status).getLsbD 6 = s.midwalk ∧ (s.readReg .status).extractLsb' 7 25 = 0 ∧
    (s.busy = true ↔ s.seq ≠ .idle)

/-- R28, R31 to R33, R38, R39, R41 to R47: the word of every register but STATUS (StatusWordFields), field by field, and 0 in every other bit. -/
def Obligations.WindowFields : Prop :=
  ∀ (s : State) (j : Fin 255) (v : Fin 256) (w : Fin 8),
    s.readReg .id = 0x48554646 ∧ s.readReg .version = 0x00010100 ∧ s.readReg .cmd = 0 ∧
    s.readReg .total = s.total ∧ s.readReg .inCount = s.inCount ∧ s.readReg .outCount = s.outCount ∧
    (s.readReg .nsym).extractLsb' 0 9 = s.nsym ∧ (s.readReg .nsym).extractLsb' 9 23 = 0 ∧
    (s.readReg .root).extractLsb' 0 9 = s.root ∧ (s.readReg .root).extractLsb' 9 23 = 0 ∧
    (s.readReg .heapSize).extractLsb' 0 9 = s.heapSize ∧ (s.readReg .heapSize).extractLsb' 9 23 = 0 ∧
    (s.readReg .nextInt).extractLsb' 0 9 = s.nextInt ∧ (s.readReg .nextInt).extractLsb' 9 23 = 0 ∧
    s.readReg (.freq v) = s.freq.get v ∧
    (s.readReg (.heap v)).extractLsb' 0 9 = s.heap.get v ∧ (s.readReg (.heap v)).extractLsb' 9 23 = 0 ∧
    (s.readReg .err).extractLsb' 0 8 = s.err.code ∧ (s.readReg .err).extractLsb' 8 8 = s.err.opcode ∧
    (s.readReg .err).extractLsb' 16 8 = s.err.info ∧ (s.readReg .err).extractLsb' 24 3 = s.err.cls ∧
    (s.readReg .err).extractLsb' 27 5 = 0 ∧
    (s.readReg .packState).extractLsb' 0 8 = s.acc ∧ (s.readReg .packState).extractLsb' 8 3 = s.accN ∧
    (s.readReg .packState).extractLsb' 11 21 = 0 ∧
    (s.readReg .walk).extractLsb' 0 9 = s.cur ∧ (s.readReg .walk).extractLsb' 9 23 = 0 ∧
    (s.readReg (.nodeLink j)).extractLsb' 0 9 = (s.node.get j).left ∧ (s.readReg (.nodeLink j)).extractLsb' 9 7 = 0 ∧
    (s.readReg (.nodeLink j)).extractLsb' 16 9 = (s.node.get j).right ∧ (s.readReg (.nodeLink j)).extractLsb' 25 6 = 0 ∧
    (s.readReg (.nodeLink j)).getLsbD 31 = (s.node.get j).valid ∧ s.readReg (.nodeFreq j) = (s.node.get j).freq ∧
    (s.readReg (.codeLen v)).extractLsb' 0 8 = s.codeLen.get v ∧ (s.readReg (.codeLen v)).extractLsb' 8 24 = 0 ∧
    s.readReg (.codeBits v w) = (s.codeBits.get v).extractLsb' (32 * w.val) 32

/-! ### Decoding and stepping (30_encoding.md R73 to R79) -/

/-- R74: the command words of the table, written out, decode to their commands, and a few words outside it do not decode. -/
def Obligations.TableWordsDecode : Prop :=
  decode 0x00000000 = .command .nop ∧ decode 0x00000001 = .command .softReset ∧ decode 0x00000002 = .command .clearErr ∧
    decode 0x00000010 = .command .freqClear ∧ decode 0x00000011 = .command .freqCount ∧ decode 0x00000020 = .command .heapBuild ∧
    decode 0x00000030 = .command .treeStep ∧ decode 0x00000031 = .command .treeBuild ∧ decode 0x00000040 = .command .codesDerive ∧
    decode 0x00000050 = .command .treeSerialize ∧ decode 0x00000051 = .command .treeDeserialize ∧ decode 0x00000060 = .command .pack ∧
    decode 0x00000070 = .command .unpack ∧ decode 0x00000080 = .command .compress ∧ decode 0x00000081 = .command .decompress ∧
    decode 0x00000111 = .illegal .reservedBits ∧ decode 0x000000FF = .illegal .unknownOpcode

/-- R73 to R75, R78: decoding and encoding agree on all instructions, on all words and on all byte strings: every command has one word, and only
that word decodes to it. -/
def Obligations.DecodeEncodeAgree : Prop :=
  (∀ i : Instr, i.wellFormed = true → decode (encode i) = .command i ∧ decodeBytes (encodeBytes i) = .command i) ∧
    (∀ (w : Word) (i : Instr), decode w = .command i → w = encode i) ∧
    (∀ (bytes : List Byte) (i : Instr), decodeBytes bytes = .command i → bytes = encodeBytes i) ∧
    ∀ w : Word, CommandWord.wellFormed w = true ↔ ∃ i, decode w = .command i

/-- R40, R75, R91: when the host's next action writes a word to CMD, the reset input is not asserted (R166; log 10) and the word decodes to i, the step is
exec of i in the state whose host list has moved past that action (log 1); and so it is for the state that places the word (log 14). -/
def Obligations.StepRunsDecodedCommand : Prop :=
  (∀ (s : State) (w : Word) (i : Instr) (rest : List HostAction), s.inReset = false → s.host = .write 0x0008 w :: rest →
    decode w = .command i → step s = exec i { s with host := rest }) ∧
  (∀ (s : State) (i : Instr), step (s.withFetchWord 32 (encode i).toNat) = exec i { s with inReset := false })

/-- R60, R61, R79, R80, R88: the host's feed appends the tokens its port words carry, kind 0b11 as `Fail`; a withdrawal empties IN while idle and is refused
while busy (log 11); settling the answers sets those of the coming offers and of every later one (log 5). In a host program SINK FAIL k fails the k-th
offer and no other (that it cancels a FAIL an earlier SINK FAIL still has to give is the model's choice, log 18); WAIT reads STATUS again and again until BUSY = 0; READ and EXPECT OUT compare the word read, and the bytes accepted since the mark,
with the value the program gives (log 18). -/
def Obligations.HostStreamsAndPrograms : Prop :=
  (∀ d, Token.ofPort ⟨0b00, d⟩ = .byte d ∧ Token.ofPort ⟨0b01, d⟩ = .endOfPass ∧ Token.ofPort ⟨0b10, d⟩ = .fail ∧
    Token.ofPort ⟨0b11, d⟩ = .fail) ∧
  (∀ (s : State) (rest : List HostAction), s.inReset = false →
    (∀ words, s.host = .feed words :: rest → step s = .next { s with host := rest, inq := s.inq ++ words.map Token.ofPort }) ∧
    (s.host = .withdraw :: rest → s.busy = false → step s = .next { s with host := rest, inq := [] }) ∧
    (s.host = .withdraw :: rest → s.busy = true → step s = .refused .withdrawWhileBusy) ∧
    (∀ bits later, s.host = .answer bits later :: rest →
      step s = .next { s with host := rest, sink := bits.map SinkAnswer.ofPort, sinkRest := later.map SinkAnswer.ofPort })) ∧
  (∀ (r : ProgramRun) (later : List Stmt), r.machine.inReset = false →
    (∀ k, 1 ≤ k → r.todo = .sinkFail k :: later →
      ∃ t, r.step = .next { r with machine := t, todo := later } ∧ t.FailsAt (k - 1) ∧ (∀ j, k ≤ j → t.answerAt j = some .ok) ∧
        t = { r.machine with host := [], sink := t.sink, sinkRest := t.sinkRest }) ∧
    (∀ u, r.todo = .wait :: later → State.resume { r.machine with host := [], pace := none } = .next u →
      r.step = .next { r with
        machine := { u with busData := u.statusWord }, todo := if u.busy then .wait :: later else later }) ∧
    (∀ reg v, r.todo = .read reg (some v) :: later → r.machine.busy = false →
      r.step = .next { r with
        machine := { r.machine with host := [], busData := r.machine.readReg reg }, todo := later
        mismatches := if r.machine.readReg reg = v then r.mismatches else r.mismatches ++ [.read reg (some v)] }) ∧
    (∀ bytes, r.todo = .expectOut bytes :: later →
      r.step = .next { r with
        todo := later, mark := r.machine.out.length
        mismatches := if r.machine.out.drop r.mark = bytes then r.mismatches else r.mismatches ++ [.expectOut bytes] }))

/-! ### Invariants and whole-machine rules -/

/-- R48, R49, R51: the state after reset meets the invariants. -/
def Obligations.ResetMeetsInvariants : Prop := State.reset.Inv ∧ State.reset.TreesOk

/-- R49, R51 (its first sentence), R131, R34, R39, R95, R37, R21: whatever the host does, a step keeps TOTAL and NSYM the sum and the number of the counts,
NIL beyond the live heap entries, ACC below 2^ACC_N, the codes aligned, ERR a legal record that only SOFT_RESET and CLEAR_ERR can follow, SEQ
a position of the accepted command, DONE at 0 while busy, every element at its reset value while the reset input is asserted (R166), and the stack within
256 entries. In the clause about the reset input the empty traversal stack, which R37 and R48 leave unspecified, is log 8's (DESIGN CHOICE), and that host
writes during the reset keep the values is log 10's (DEDUCED). -/
def Obligations.StepKeepsInvariants : Prop := ∀ s t : State, s.Inv → step s = .next t → t.Inv

/-- R50: after every command that completes or raises, ROOT is NIL or an internal slot from which every path ends at a leaf, all its internal nodes
valid. Stated with what carries it from command to command (the live heap entries are trees that fill the allocated slots). -/
def Obligations.CommandsKeepTrees : Prop :=
  ∀ (i : Instr) (s t : State), s.Ready → s.TreesOk → exec i s = .next t → t.seq = .idle → t.TreesOk

/-- R118, R121, R125, R135: in a state whose tree and heap are as commands leave them, no accepted command stops the machine: none allocates without a
slot, overflows the stack, walks off the tree or derives a code of more than 255 bits. -/
def Obligations.CommandsNeverStop : Prop :=
  ∀ (i : Instr) (s : State), s.Ready → s.TreesOk → ∃ t, exec i s = .next t

/-- R180, R177, R8: how far the engine runs before the host acts does not change what a command, or an illegal word (log 16), leaves: held after n transfers
and then let run, it leaves what it leaves when never held (log 3). -/
def Obligations.HoldingChangesNothing : Prop :=
  (∀ (i : Instr) (s t : State) (n : Nat), s.seq = .idle → exec i { s with pace := some n } = .next t →
    State.resume { t with pace := none } = exec i { s with pace := none }) ∧
  (∀ (w : Word) (s t : State) (n : Nat), s.seq = .idle → memWrite 0x0008 w { s with pace := some n } = .next t →
    State.resume { t with pace := none } = memWrite 0x0008 w { s with pace := none })
end

