-- ==== Sys2Proof/Laws/State.lean ====
section
/-! SUPPORT. What each named update of State does to each field: one lemma a field, so that no proof unfolds a record update. -/

namespace Sys2Proof.Machine

open Sys2Proof

/-! ### tick -/

@[simp] theorem State.tick_seq (s : State) : (s.tick).seq = s.seq := rfl
@[simp] theorem State.tick_done (s : State) : (s.tick).done = s.done := rfl
@[simp] theorem State.tick_rej (s : State) : (s.tick).rej = s.rej := rfl
@[simp] theorem State.tick_emptyArt (s : State) : (s.tick).emptyArt = s.emptyArt := rfl
@[simp] theorem State.tick_midwalk (s : State) : (s.tick).midwalk = s.midwalk := rfl
@[simp] theorem State.tick_err (s : State) : (s.tick).err = s.err := rfl
@[simp] theorem State.tick_freq (s : State) : (s.tick).freq = s.freq := rfl
@[simp] theorem State.tick_total (s : State) : (s.tick).total = s.total := rfl
@[simp] theorem State.tick_nsym (s : State) : (s.tick).nsym = s.nsym := rfl
@[simp] theorem State.tick_node (s : State) : (s.tick).node = s.node := rfl
@[simp] theorem State.tick_nextInt (s : State) : (s.tick).nextInt = s.nextInt := rfl
@[simp] theorem State.tick_root (s : State) : (s.tick).root = s.root := rfl
@[simp] theorem State.tick_heap (s : State) : (s.tick).heap = s.heap := rfl
@[simp] theorem State.tick_heapSize (s : State) : (s.tick).heapSize = s.heapSize := rfl
@[simp] theorem State.tick_codeLen (s : State) : (s.tick).codeLen = s.codeLen := rfl
@[simp] theorem State.tick_codeBits (s : State) : (s.tick).codeBits = s.codeBits := rfl
@[simp] theorem State.tick_acc (s : State) : (s.tick).acc = s.acc := rfl
@[simp] theorem State.tick_accN (s : State) : (s.tick).accN = s.accN := rfl
@[simp] theorem State.tick_cur (s : State) : (s.tick).cur = s.cur := rfl
@[simp] theorem State.tick_stack (s : State) : (s.tick).stack = s.stack := rfl
@[simp] theorem State.tick_inCount (s : State) : (s.tick).inCount = s.inCount := rfl
@[simp] theorem State.tick_outCount (s : State) : (s.tick).outCount = s.outCount := rfl
@[simp] theorem State.tick_inq (s : State) : (s.tick).inq = s.inq := rfl
@[simp] theorem State.tick_out (s : State) : (s.tick).out = s.out := rfl
@[simp] theorem State.tick_sink (s : State) : (s.tick).sink = s.sink := rfl
@[simp] theorem State.tick_host (s : State) : (s.tick).host = s.host := rfl
@[simp] theorem State.tick_pace (s : State) : (s.tick).pace = s.pace.map (· - 1) := rfl
@[simp] theorem State.tick_busData (s : State) : (s.tick).busData = s.busData := rfl
@[simp] theorem State.tick_draws (s : State) : (s.tick).draws = s.draws := rfl
@[simp] theorem State.tick_sinkRest (s : State) : (s.tick).sinkRest = s.sinkRest := rfl
@[simp] theorem State.tick_inReset (s : State) : (s.tick).inReset = s.inReset := rfl

/-! ### accept -/

@[simp] theorem State.accept_seq (s : State) (op : Byte) (pos : Pos) (todo : List Stage) : (s.accept op pos todo).seq = .running op pos todo := rfl
@[simp] theorem State.accept_done (s : State) (op : Byte) (pos : Pos) (todo : List Stage) : (s.accept op pos todo).done = false := rfl
@[simp] theorem State.accept_rej (s : State) (op : Byte) (pos : Pos) (todo : List Stage) : (s.accept op pos todo).rej = s.rej := rfl
@[simp] theorem State.accept_emptyArt (s : State) (op : Byte) (pos : Pos) (todo : List Stage) : (s.accept op pos todo).emptyArt = false := rfl
@[simp] theorem State.accept_midwalk (s : State) (op : Byte) (pos : Pos) (todo : List Stage) : (s.accept op pos todo).midwalk = false := rfl
@[simp] theorem State.accept_err (s : State) (op : Byte) (pos : Pos) (todo : List Stage) : (s.accept op pos todo).err = s.err := rfl
@[simp] theorem State.accept_freq (s : State) (op : Byte) (pos : Pos) (todo : List Stage) : (s.accept op pos todo).freq = s.freq := rfl
@[simp] theorem State.accept_total (s : State) (op : Byte) (pos : Pos) (todo : List Stage) : (s.accept op pos todo).total = s.total := rfl
@[simp] theorem State.accept_nsym (s : State) (op : Byte) (pos : Pos) (todo : List Stage) : (s.accept op pos todo).nsym = s.nsym := rfl
@[simp] theorem State.accept_node (s : State) (op : Byte) (pos : Pos) (todo : List Stage) : (s.accept op pos todo).node = s.node := rfl
@[simp] theorem State.accept_nextInt (s : State) (op : Byte) (pos : Pos) (todo : List Stage) : (s.accept op pos todo).nextInt = s.nextInt := rfl
@[simp] theorem State.accept_root (s : State) (op : Byte) (pos : Pos) (todo : List Stage) : (s.accept op pos todo).root = s.root := rfl
@[simp] theorem State.accept_heap (s : State) (op : Byte) (pos : Pos) (todo : List Stage) : (s.accept op pos todo).heap = s.heap := rfl
@[simp] theorem State.accept_heapSize (s : State) (op : Byte) (pos : Pos) (todo : List Stage) : (s.accept op pos todo).heapSize = s.heapSize := rfl
@[simp] theorem State.accept_codeLen (s : State) (op : Byte) (pos : Pos) (todo : List Stage) : (s.accept op pos todo).codeLen = s.codeLen := rfl
@[simp] theorem State.accept_codeBits (s : State) (op : Byte) (pos : Pos) (todo : List Stage) : (s.accept op pos todo).codeBits = s.codeBits := rfl
@[simp] theorem State.accept_acc (s : State) (op : Byte) (pos : Pos) (todo : List Stage) : (s.accept op pos todo).acc = s.acc := rfl
@[simp] theorem State.accept_accN (s : State) (op : Byte) (pos : Pos) (todo : List Stage) : (s.accept op pos todo).accN = s.accN := rfl
@[simp] theorem State.accept_cur (s : State) (op : Byte) (pos : Pos) (todo : List Stage) : (s.accept op pos todo).cur = s.cur := rfl
@[simp] theorem State.accept_stack (s : State) (op : Byte) (pos : Pos) (todo : List Stage) : (s.accept op pos todo).stack = s.stack := rfl
@[simp] theorem State.accept_inCount (s : State) (op : Byte) (pos : Pos) (todo : List Stage) : (s.accept op pos todo).inCount = 0 := rfl
@[simp] theorem State.accept_outCount (s : State) (op : Byte) (pos : Pos) (todo : List Stage) : (s.accept op pos todo).outCount = 0 := rfl
@[simp] theorem State.accept_inq (s : State) (op : Byte) (pos : Pos) (todo : List Stage) : (s.accept op pos todo).inq = s.inq := rfl
@[simp] theorem State.accept_out (s : State) (op : Byte) (pos : Pos) (todo : List Stage) : (s.accept op pos todo).out = s.out := rfl
@[simp] theorem State.accept_sink (s : State) (op : Byte) (pos : Pos) (todo : List Stage) : (s.accept op pos todo).sink = s.sink := rfl
@[simp] theorem State.accept_host (s : State) (op : Byte) (pos : Pos) (todo : List Stage) : (s.accept op pos todo).host = s.host := rfl
@[simp] theorem State.accept_pace (s : State) (op : Byte) (pos : Pos) (todo : List Stage) : (s.accept op pos todo).pace = s.pace := rfl
@[simp] theorem State.accept_busData (s : State) (op : Byte) (pos : Pos) (todo : List Stage) : (s.accept op pos todo).busData = s.busData := rfl
@[simp] theorem State.accept_draws (s : State) (op : Byte) (pos : Pos) (todo : List Stage) : (s.accept op pos todo).draws = s.draws := rfl
@[simp] theorem State.accept_sinkRest (s : State) (op : Byte) (pos : Pos) (todo : List Stage) : (s.accept op pos todo).sinkRest = s.sinkRest := rfl
@[simp] theorem State.accept_inReset (s : State) (op : Byte) (pos : Pos) (todo : List Stage) : (s.accept op pos todo).inReset = s.inReset := rfl

/-! ### reject -/

@[simp] theorem State.reject_seq (s : State) : (s.reject).seq = s.seq := rfl
@[simp] theorem State.reject_done (s : State) : (s.reject).done = s.done := rfl
@[simp] theorem State.reject_rej (s : State) : (s.reject).rej = true := rfl
@[simp] theorem State.reject_emptyArt (s : State) : (s.reject).emptyArt = s.emptyArt := rfl
@[simp] theorem State.reject_midwalk (s : State) : (s.reject).midwalk = s.midwalk := rfl
@[simp] theorem State.reject_err (s : State) : (s.reject).err = s.err := rfl
@[simp] theorem State.reject_freq (s : State) : (s.reject).freq = s.freq := rfl
@[simp] theorem State.reject_total (s : State) : (s.reject).total = s.total := rfl
@[simp] theorem State.reject_nsym (s : State) : (s.reject).nsym = s.nsym := rfl
@[simp] theorem State.reject_node (s : State) : (s.reject).node = s.node := rfl
@[simp] theorem State.reject_nextInt (s : State) : (s.reject).nextInt = s.nextInt := rfl
@[simp] theorem State.reject_root (s : State) : (s.reject).root = s.root := rfl
@[simp] theorem State.reject_heap (s : State) : (s.reject).heap = s.heap := rfl
@[simp] theorem State.reject_heapSize (s : State) : (s.reject).heapSize = s.heapSize := rfl
@[simp] theorem State.reject_codeLen (s : State) : (s.reject).codeLen = s.codeLen := rfl
@[simp] theorem State.reject_codeBits (s : State) : (s.reject).codeBits = s.codeBits := rfl
@[simp] theorem State.reject_acc (s : State) : (s.reject).acc = s.acc := rfl
@[simp] theorem State.reject_accN (s : State) : (s.reject).accN = s.accN := rfl
@[simp] theorem State.reject_cur (s : State) : (s.reject).cur = s.cur := rfl
@[simp] theorem State.reject_stack (s : State) : (s.reject).stack = s.stack := rfl
@[simp] theorem State.reject_inCount (s : State) : (s.reject).inCount = s.inCount := rfl
@[simp] theorem State.reject_outCount (s : State) : (s.reject).outCount = s.outCount := rfl
@[simp] theorem State.reject_inq (s : State) : (s.reject).inq = s.inq := rfl
@[simp] theorem State.reject_out (s : State) : (s.reject).out = s.out := rfl
@[simp] theorem State.reject_sink (s : State) : (s.reject).sink = s.sink := rfl
@[simp] theorem State.reject_host (s : State) : (s.reject).host = s.host := rfl
@[simp] theorem State.reject_pace (s : State) : (s.reject).pace = s.pace := rfl
@[simp] theorem State.reject_busData (s : State) : (s.reject).busData = s.busData := rfl
@[simp] theorem State.reject_draws (s : State) : (s.reject).draws = s.draws := rfl
@[simp] theorem State.reject_sinkRest (s : State) : (s.reject).sinkRest = s.sinkRest := rfl
@[simp] theorem State.reject_inReset (s : State) : (s.reject).inReset = s.inReset := rfl

/-! ### complete -/

@[simp] theorem State.complete_seq (s : State) : (s.complete).seq = .idle := rfl
@[simp] theorem State.complete_done (s : State) : (s.complete).done = true := rfl
@[simp] theorem State.complete_rej (s : State) : (s.complete).rej = s.rej := rfl
@[simp] theorem State.complete_emptyArt (s : State) : (s.complete).emptyArt = s.emptyArt := rfl
@[simp] theorem State.complete_midwalk (s : State) : (s.complete).midwalk = s.midwalk := rfl
@[simp] theorem State.complete_err (s : State) : (s.complete).err = s.err := rfl
@[simp] theorem State.complete_freq (s : State) : (s.complete).freq = s.freq := rfl
@[simp] theorem State.complete_total (s : State) : (s.complete).total = s.total := rfl
@[simp] theorem State.complete_nsym (s : State) : (s.complete).nsym = s.nsym := rfl
@[simp] theorem State.complete_node (s : State) : (s.complete).node = s.node := rfl
@[simp] theorem State.complete_nextInt (s : State) : (s.complete).nextInt = s.nextInt := rfl
@[simp] theorem State.complete_root (s : State) : (s.complete).root = s.root := rfl
@[simp] theorem State.complete_heap (s : State) : (s.complete).heap = s.heap := rfl
@[simp] theorem State.complete_heapSize (s : State) : (s.complete).heapSize = s.heapSize := rfl
@[simp] theorem State.complete_codeLen (s : State) : (s.complete).codeLen = s.codeLen := rfl
@[simp] theorem State.complete_codeBits (s : State) : (s.complete).codeBits = s.codeBits := rfl
@[simp] theorem State.complete_acc (s : State) : (s.complete).acc = s.acc := rfl
@[simp] theorem State.complete_accN (s : State) : (s.complete).accN = s.accN := rfl
@[simp] theorem State.complete_cur (s : State) : (s.complete).cur = s.cur := rfl
@[simp] theorem State.complete_stack (s : State) : (s.complete).stack = s.stack := rfl
@[simp] theorem State.complete_inCount (s : State) : (s.complete).inCount = s.inCount := rfl
@[simp] theorem State.complete_outCount (s : State) : (s.complete).outCount = s.outCount := rfl
@[simp] theorem State.complete_inq (s : State) : (s.complete).inq = s.inq := rfl
@[simp] theorem State.complete_out (s : State) : (s.complete).out = s.out := rfl
@[simp] theorem State.complete_sink (s : State) : (s.complete).sink = s.sink := rfl
@[simp] theorem State.complete_host (s : State) : (s.complete).host = s.host := rfl
@[simp] theorem State.complete_pace (s : State) : (s.complete).pace = s.pace := rfl
@[simp] theorem State.complete_busData (s : State) : (s.complete).busData = s.busData := rfl
@[simp] theorem State.complete_draws (s : State) : (s.complete).draws = s.draws := rfl
@[simp] theorem State.complete_sinkRest (s : State) : (s.complete).sinkRest = s.sinkRest := rfl
@[simp] theorem State.complete_inReset (s : State) : (s.complete).inReset = s.inReset := rfl

/-! ### raiseError -/

@[simp] theorem State.raiseError_seq (s : State) (op : Byte) (e : ErrorKind) (info : Byte) : (s.raiseError op e info).seq = .idle := rfl
@[simp] theorem State.raiseError_done (s : State) (op : Byte) (e : ErrorKind) (info : Byte) : (s.raiseError op e info).done = s.done := rfl
@[simp] theorem State.raiseError_rej (s : State) (op : Byte) (e : ErrorKind) (info : Byte) : (s.raiseError op e info).rej = s.rej := rfl
@[simp] theorem State.raiseError_emptyArt (s : State) (op : Byte) (e : ErrorKind) (info : Byte) : (s.raiseError op e info).emptyArt = s.emptyArt := rfl
@[simp] theorem State.raiseError_midwalk (s : State) (op : Byte) (e : ErrorKind) (info : Byte) : (s.raiseError op e info).midwalk = s.midwalk := rfl
@[simp] theorem State.raiseError_err (s : State) (op : Byte) (e : ErrorKind) (info : Byte) : (s.raiseError op e info).err = ⟨e.code, op, info, e.cls⟩ := rfl
@[simp] theorem State.raiseError_freq (s : State) (op : Byte) (e : ErrorKind) (info : Byte) : (s.raiseError op e info).freq = s.freq := rfl
@[simp] theorem State.raiseError_total (s : State) (op : Byte) (e : ErrorKind) (info : Byte) : (s.raiseError op e info).total = s.total := rfl
@[simp] theorem State.raiseError_nsym (s : State) (op : Byte) (e : ErrorKind) (info : Byte) : (s.raiseError op e info).nsym = s.nsym := rfl
@[simp] theorem State.raiseError_node (s : State) (op : Byte) (e : ErrorKind) (info : Byte) : (s.raiseError op e info).node = s.node := rfl
@[simp] theorem State.raiseError_nextInt (s : State) (op : Byte) (e : ErrorKind) (info : Byte) : (s.raiseError op e info).nextInt = s.nextInt := rfl
@[simp] theorem State.raiseError_root (s : State) (op : Byte) (e : ErrorKind) (info : Byte) : (s.raiseError op e info).root = s.root := rfl
@[simp] theorem State.raiseError_heap (s : State) (op : Byte) (e : ErrorKind) (info : Byte) : (s.raiseError op e info).heap = s.heap := rfl
@[simp] theorem State.raiseError_heapSize (s : State) (op : Byte) (e : ErrorKind) (info : Byte) : (s.raiseError op e info).heapSize = s.heapSize := rfl
@[simp] theorem State.raiseError_codeLen (s : State) (op : Byte) (e : ErrorKind) (info : Byte) : (s.raiseError op e info).codeLen = s.codeLen := rfl
@[simp] theorem State.raiseError_codeBits (s : State) (op : Byte) (e : ErrorKind) (info : Byte) : (s.raiseError op e info).codeBits = s.codeBits := rfl
@[simp] theorem State.raiseError_acc (s : State) (op : Byte) (e : ErrorKind) (info : Byte) : (s.raiseError op e info).acc = s.acc := rfl
@[simp] theorem State.raiseError_accN (s : State) (op : Byte) (e : ErrorKind) (info : Byte) : (s.raiseError op e info).accN = s.accN := rfl
@[simp] theorem State.raiseError_cur (s : State) (op : Byte) (e : ErrorKind) (info : Byte) : (s.raiseError op e info).cur = s.cur := rfl
@[simp] theorem State.raiseError_stack (s : State) (op : Byte) (e : ErrorKind) (info : Byte) : (s.raiseError op e info).stack = s.stack := rfl
@[simp] theorem State.raiseError_inCount (s : State) (op : Byte) (e : ErrorKind) (info : Byte) : (s.raiseError op e info).inCount = s.inCount := rfl
@[simp] theorem State.raiseError_outCount (s : State) (op : Byte) (e : ErrorKind) (info : Byte) : (s.raiseError op e info).outCount = s.outCount := rfl
@[simp] theorem State.raiseError_inq (s : State) (op : Byte) (e : ErrorKind) (info : Byte) : (s.raiseError op e info).inq = s.inq := rfl
@[simp] theorem State.raiseError_out (s : State) (op : Byte) (e : ErrorKind) (info : Byte) : (s.raiseError op e info).out = s.out := rfl
@[simp] theorem State.raiseError_sink (s : State) (op : Byte) (e : ErrorKind) (info : Byte) : (s.raiseError op e info).sink = s.sink := rfl
@[simp] theorem State.raiseError_host (s : State) (op : Byte) (e : ErrorKind) (info : Byte) : (s.raiseError op e info).host = s.host := rfl
@[simp] theorem State.raiseError_pace (s : State) (op : Byte) (e : ErrorKind) (info : Byte) : (s.raiseError op e info).pace = s.pace := rfl
@[simp] theorem State.raiseError_busData (s : State) (op : Byte) (e : ErrorKind) (info : Byte) : (s.raiseError op e info).busData = s.busData := rfl
@[simp] theorem State.raiseError_draws (s : State) (op : Byte) (e : ErrorKind) (info : Byte) : (s.raiseError op e info).draws = s.draws := rfl
@[simp] theorem State.raiseError_sinkRest (s : State) (op : Byte) (e : ErrorKind) (info : Byte) : (s.raiseError op e info).sinkRest = s.sinkRest := rfl
@[simp] theorem State.raiseError_inReset (s : State) (op : Byte) (e : ErrorKind) (info : Byte) : (s.raiseError op e info).inReset = s.inReset := rfl

/-! ### clearError -/

@[simp] theorem State.clearError_seq (s : State) : (s.clearError).seq = s.seq := rfl
@[simp] theorem State.clearError_done (s : State) : (s.clearError).done = s.done := rfl
@[simp] theorem State.clearError_rej (s : State) : (s.clearError).rej = s.rej := rfl
@[simp] theorem State.clearError_emptyArt (s : State) : (s.clearError).emptyArt = s.emptyArt := rfl
@[simp] theorem State.clearError_midwalk (s : State) : (s.clearError).midwalk = s.midwalk := rfl
@[simp] theorem State.clearError_err (s : State) : (s.clearError).err = .none := rfl
@[simp] theorem State.clearError_freq (s : State) : (s.clearError).freq = s.freq := rfl
@[simp] theorem State.clearError_total (s : State) : (s.clearError).total = s.total := rfl
@[simp] theorem State.clearError_nsym (s : State) : (s.clearError).nsym = s.nsym := rfl
@[simp] theorem State.clearError_node (s : State) : (s.clearError).node = s.node := rfl
@[simp] theorem State.clearError_nextInt (s : State) : (s.clearError).nextInt = s.nextInt := rfl
@[simp] theorem State.clearError_root (s : State) : (s.clearError).root = s.root := rfl
@[simp] theorem State.clearError_heap (s : State) : (s.clearError).heap = s.heap := rfl
@[simp] theorem State.clearError_heapSize (s : State) : (s.clearError).heapSize = s.heapSize := rfl
@[simp] theorem State.clearError_codeLen (s : State) : (s.clearError).codeLen = s.codeLen := rfl
@[simp] theorem State.clearError_codeBits (s : State) : (s.clearError).codeBits = s.codeBits := rfl
@[simp] theorem State.clearError_acc (s : State) : (s.clearError).acc = s.acc := rfl
@[simp] theorem State.clearError_accN (s : State) : (s.clearError).accN = s.accN := rfl
@[simp] theorem State.clearError_cur (s : State) : (s.clearError).cur = s.cur := rfl
@[simp] theorem State.clearError_stack (s : State) : (s.clearError).stack = s.stack := rfl
@[simp] theorem State.clearError_inCount (s : State) : (s.clearError).inCount = s.inCount := rfl
@[simp] theorem State.clearError_outCount (s : State) : (s.clearError).outCount = s.outCount := rfl
@[simp] theorem State.clearError_inq (s : State) : (s.clearError).inq = s.inq := rfl
@[simp] theorem State.clearError_out (s : State) : (s.clearError).out = s.out := rfl
@[simp] theorem State.clearError_sink (s : State) : (s.clearError).sink = s.sink := rfl
@[simp] theorem State.clearError_host (s : State) : (s.clearError).host = s.host := rfl
@[simp] theorem State.clearError_pace (s : State) : (s.clearError).pace = s.pace := rfl
@[simp] theorem State.clearError_busData (s : State) : (s.clearError).busData = s.busData := rfl
@[simp] theorem State.clearError_draws (s : State) : (s.clearError).draws = s.draws := rfl
@[simp] theorem State.clearError_sinkRest (s : State) : (s.clearError).sinkRest = s.sinkRest := rfl
@[simp] theorem State.clearError_inReset (s : State) : (s.clearError).inReset = s.inReset := rfl

/-! ### clearFreq -/

@[simp] theorem State.clearFreq_seq (s : State) : (s.clearFreq).seq = s.seq := rfl
@[simp] theorem State.clearFreq_done (s : State) : (s.clearFreq).done = s.done := rfl
@[simp] theorem State.clearFreq_rej (s : State) : (s.clearFreq).rej = s.rej := rfl
@[simp] theorem State.clearFreq_emptyArt (s : State) : (s.clearFreq).emptyArt = s.emptyArt := rfl
@[simp] theorem State.clearFreq_midwalk (s : State) : (s.clearFreq).midwalk = s.midwalk := rfl
@[simp] theorem State.clearFreq_err (s : State) : (s.clearFreq).err = s.err := rfl
@[simp] theorem State.clearFreq_freq (s : State) : (s.clearFreq).freq = .fill 256 0 := rfl
@[simp] theorem State.clearFreq_total (s : State) : (s.clearFreq).total = 0 := rfl
@[simp] theorem State.clearFreq_nsym (s : State) : (s.clearFreq).nsym = 0 := rfl
@[simp] theorem State.clearFreq_node (s : State) : (s.clearFreq).node = s.node := rfl
@[simp] theorem State.clearFreq_nextInt (s : State) : (s.clearFreq).nextInt = s.nextInt := rfl
@[simp] theorem State.clearFreq_root (s : State) : (s.clearFreq).root = s.root := rfl
@[simp] theorem State.clearFreq_heap (s : State) : (s.clearFreq).heap = s.heap := rfl
@[simp] theorem State.clearFreq_heapSize (s : State) : (s.clearFreq).heapSize = s.heapSize := rfl
@[simp] theorem State.clearFreq_codeLen (s : State) : (s.clearFreq).codeLen = s.codeLen := rfl
@[simp] theorem State.clearFreq_codeBits (s : State) : (s.clearFreq).codeBits = s.codeBits := rfl
@[simp] theorem State.clearFreq_acc (s : State) : (s.clearFreq).acc = s.acc := rfl
@[simp] theorem State.clearFreq_accN (s : State) : (s.clearFreq).accN = s.accN := rfl
@[simp] theorem State.clearFreq_cur (s : State) : (s.clearFreq).cur = s.cur := rfl
@[simp] theorem State.clearFreq_stack (s : State) : (s.clearFreq).stack = s.stack := rfl
@[simp] theorem State.clearFreq_inCount (s : State) : (s.clearFreq).inCount = s.inCount := rfl
@[simp] theorem State.clearFreq_outCount (s : State) : (s.clearFreq).outCount = s.outCount := rfl
@[simp] theorem State.clearFreq_inq (s : State) : (s.clearFreq).inq = s.inq := rfl
@[simp] theorem State.clearFreq_out (s : State) : (s.clearFreq).out = s.out := rfl
@[simp] theorem State.clearFreq_sink (s : State) : (s.clearFreq).sink = s.sink := rfl
@[simp] theorem State.clearFreq_host (s : State) : (s.clearFreq).host = s.host := rfl
@[simp] theorem State.clearFreq_pace (s : State) : (s.clearFreq).pace = s.pace := rfl
@[simp] theorem State.clearFreq_busData (s : State) : (s.clearFreq).busData = s.busData := rfl
@[simp] theorem State.clearFreq_draws (s : State) : (s.clearFreq).draws = s.draws := rfl
@[simp] theorem State.clearFreq_sinkRest (s : State) : (s.clearFreq).sinkRest = s.sinkRest := rfl
@[simp] theorem State.clearFreq_inReset (s : State) : (s.clearFreq).inReset = s.inReset := rfl

/-! ### setFreq -/

@[simp] theorem State.setFreq_seq (s : State) (v : Byte) (f : Word) : (s.setFreq v f).seq = s.seq := rfl
@[simp] theorem State.setFreq_done (s : State) (v : Byte) (f : Word) : (s.setFreq v f).done = s.done := rfl
@[simp] theorem State.setFreq_rej (s : State) (v : Byte) (f : Word) : (s.setFreq v f).rej = s.rej := rfl
@[simp] theorem State.setFreq_emptyArt (s : State) (v : Byte) (f : Word) : (s.setFreq v f).emptyArt = s.emptyArt := rfl
@[simp] theorem State.setFreq_midwalk (s : State) (v : Byte) (f : Word) : (s.setFreq v f).midwalk = s.midwalk := rfl
@[simp] theorem State.setFreq_err (s : State) (v : Byte) (f : Word) : (s.setFreq v f).err = s.err := rfl
@[simp] theorem State.setFreq_freq (s : State) (v : Byte) (f : Word) : (s.setFreq v f).freq = s.freq.set (symIndex v) f := rfl
@[simp] theorem State.setFreq_total (s : State) (v : Byte) (f : Word) : (s.setFreq v f).total = s.total := rfl
@[simp] theorem State.setFreq_nsym (s : State) (v : Byte) (f : Word) : (s.setFreq v f).nsym = s.nsym := rfl
@[simp] theorem State.setFreq_node (s : State) (v : Byte) (f : Word) : (s.setFreq v f).node = s.node := rfl
@[simp] theorem State.setFreq_nextInt (s : State) (v : Byte) (f : Word) : (s.setFreq v f).nextInt = s.nextInt := rfl
@[simp] theorem State.setFreq_root (s : State) (v : Byte) (f : Word) : (s.setFreq v f).root = s.root := rfl
@[simp] theorem State.setFreq_heap (s : State) (v : Byte) (f : Word) : (s.setFreq v f).heap = s.heap := rfl
@[simp] theorem State.setFreq_heapSize (s : State) (v : Byte) (f : Word) : (s.setFreq v f).heapSize = s.heapSize := rfl
@[simp] theorem State.setFreq_codeLen (s : State) (v : Byte) (f : Word) : (s.setFreq v f).codeLen = s.codeLen := rfl
@[simp] theorem State.setFreq_codeBits (s : State) (v : Byte) (f : Word) : (s.setFreq v f).codeBits = s.codeBits := rfl
@[simp] theorem State.setFreq_acc (s : State) (v : Byte) (f : Word) : (s.setFreq v f).acc = s.acc := rfl
@[simp] theorem State.setFreq_accN (s : State) (v : Byte) (f : Word) : (s.setFreq v f).accN = s.accN := rfl
@[simp] theorem State.setFreq_cur (s : State) (v : Byte) (f : Word) : (s.setFreq v f).cur = s.cur := rfl
@[simp] theorem State.setFreq_stack (s : State) (v : Byte) (f : Word) : (s.setFreq v f).stack = s.stack := rfl
@[simp] theorem State.setFreq_inCount (s : State) (v : Byte) (f : Word) : (s.setFreq v f).inCount = s.inCount := rfl
@[simp] theorem State.setFreq_outCount (s : State) (v : Byte) (f : Word) : (s.setFreq v f).outCount = s.outCount := rfl
@[simp] theorem State.setFreq_inq (s : State) (v : Byte) (f : Word) : (s.setFreq v f).inq = s.inq := rfl
@[simp] theorem State.setFreq_out (s : State) (v : Byte) (f : Word) : (s.setFreq v f).out = s.out := rfl
@[simp] theorem State.setFreq_sink (s : State) (v : Byte) (f : Word) : (s.setFreq v f).sink = s.sink := rfl
@[simp] theorem State.setFreq_host (s : State) (v : Byte) (f : Word) : (s.setFreq v f).host = s.host := rfl
@[simp] theorem State.setFreq_pace (s : State) (v : Byte) (f : Word) : (s.setFreq v f).pace = s.pace := rfl
@[simp] theorem State.setFreq_busData (s : State) (v : Byte) (f : Word) : (s.setFreq v f).busData = s.busData := rfl
@[simp] theorem State.setFreq_draws (s : State) (v : Byte) (f : Word) : (s.setFreq v f).draws = s.draws := rfl
@[simp] theorem State.setFreq_sinkRest (s : State) (v : Byte) (f : Word) : (s.setFreq v f).sinkRest = s.sinkRest := rfl
@[simp] theorem State.setFreq_inReset (s : State) (v : Byte) (f : Word) : (s.setFreq v f).inReset = s.inReset := rfl

/-! ### countByte -/

@[simp] theorem State.countByte_seq (s : State) (b : Byte) : (s.countByte b).seq = s.seq := rfl
@[simp] theorem State.countByte_done (s : State) (b : Byte) : (s.countByte b).done = s.done := rfl
@[simp] theorem State.countByte_rej (s : State) (b : Byte) : (s.countByte b).rej = s.rej := rfl
@[simp] theorem State.countByte_emptyArt (s : State) (b : Byte) : (s.countByte b).emptyArt = s.emptyArt := rfl
@[simp] theorem State.countByte_midwalk (s : State) (b : Byte) : (s.countByte b).midwalk = s.midwalk := rfl
@[simp] theorem State.countByte_err (s : State) (b : Byte) : (s.countByte b).err = s.err := rfl
@[simp] theorem State.countByte_freq (s : State) (b : Byte) : (s.countByte b).freq = s.freq.set (symIndex b) (s.freqOf b + 1) := rfl
@[simp] theorem State.countByte_total (s : State) (b : Byte) : (s.countByte b).total = s.total + 1 := rfl
@[simp] theorem State.countByte_nsym (s : State) (b : Byte) : (s.countByte b).nsym = if s.freqOf b = 0 then s.nsym + 1 else s.nsym := rfl
@[simp] theorem State.countByte_node (s : State) (b : Byte) : (s.countByte b).node = s.node := rfl
@[simp] theorem State.countByte_nextInt (s : State) (b : Byte) : (s.countByte b).nextInt = s.nextInt := rfl
@[simp] theorem State.countByte_root (s : State) (b : Byte) : (s.countByte b).root = s.root := rfl
@[simp] theorem State.countByte_heap (s : State) (b : Byte) : (s.countByte b).heap = s.heap := rfl
@[simp] theorem State.countByte_heapSize (s : State) (b : Byte) : (s.countByte b).heapSize = s.heapSize := rfl
@[simp] theorem State.countByte_codeLen (s : State) (b : Byte) : (s.countByte b).codeLen = s.codeLen := rfl
@[simp] theorem State.countByte_codeBits (s : State) (b : Byte) : (s.countByte b).codeBits = s.codeBits := rfl
@[simp] theorem State.countByte_acc (s : State) (b : Byte) : (s.countByte b).acc = s.acc := rfl
@[simp] theorem State.countByte_accN (s : State) (b : Byte) : (s.countByte b).accN = s.accN := rfl
@[simp] theorem State.countByte_cur (s : State) (b : Byte) : (s.countByte b).cur = s.cur := rfl
@[simp] theorem State.countByte_stack (s : State) (b : Byte) : (s.countByte b).stack = s.stack := rfl
@[simp] theorem State.countByte_inCount (s : State) (b : Byte) : (s.countByte b).inCount = s.inCount := rfl
@[simp] theorem State.countByte_outCount (s : State) (b : Byte) : (s.countByte b).outCount = s.outCount := rfl
@[simp] theorem State.countByte_inq (s : State) (b : Byte) : (s.countByte b).inq = s.inq := rfl
@[simp] theorem State.countByte_out (s : State) (b : Byte) : (s.countByte b).out = s.out := rfl
@[simp] theorem State.countByte_sink (s : State) (b : Byte) : (s.countByte b).sink = s.sink := rfl
@[simp] theorem State.countByte_host (s : State) (b : Byte) : (s.countByte b).host = s.host := rfl
@[simp] theorem State.countByte_pace (s : State) (b : Byte) : (s.countByte b).pace = s.pace := rfl
@[simp] theorem State.countByte_busData (s : State) (b : Byte) : (s.countByte b).busData = s.busData := rfl
@[simp] theorem State.countByte_draws (s : State) (b : Byte) : (s.countByte b).draws = s.draws := rfl
@[simp] theorem State.countByte_sinkRest (s : State) (b : Byte) : (s.countByte b).sinkRest = s.sinkRest := rfl
@[simp] theorem State.countByte_inReset (s : State) (b : Byte) : (s.countByte b).inReset = s.inReset := rfl

/-! ### setCode -/

@[simp] theorem State.setCode_seq (s : State) (v len : Byte) (c : Code) : (s.setCode v len c).seq = s.seq := rfl
@[simp] theorem State.setCode_done (s : State) (v len : Byte) (c : Code) : (s.setCode v len c).done = s.done := rfl
@[simp] theorem State.setCode_rej (s : State) (v len : Byte) (c : Code) : (s.setCode v len c).rej = s.rej := rfl
@[simp] theorem State.setCode_emptyArt (s : State) (v len : Byte) (c : Code) : (s.setCode v len c).emptyArt = s.emptyArt := rfl
@[simp] theorem State.setCode_midwalk (s : State) (v len : Byte) (c : Code) : (s.setCode v len c).midwalk = s.midwalk := rfl
@[simp] theorem State.setCode_err (s : State) (v len : Byte) (c : Code) : (s.setCode v len c).err = s.err := rfl
@[simp] theorem State.setCode_freq (s : State) (v len : Byte) (c : Code) : (s.setCode v len c).freq = s.freq := rfl
@[simp] theorem State.setCode_total (s : State) (v len : Byte) (c : Code) : (s.setCode v len c).total = s.total := rfl
@[simp] theorem State.setCode_nsym (s : State) (v len : Byte) (c : Code) : (s.setCode v len c).nsym = s.nsym := rfl
@[simp] theorem State.setCode_node (s : State) (v len : Byte) (c : Code) : (s.setCode v len c).node = s.node := rfl
@[simp] theorem State.setCode_nextInt (s : State) (v len : Byte) (c : Code) : (s.setCode v len c).nextInt = s.nextInt := rfl
@[simp] theorem State.setCode_root (s : State) (v len : Byte) (c : Code) : (s.setCode v len c).root = s.root := rfl
@[simp] theorem State.setCode_heap (s : State) (v len : Byte) (c : Code) : (s.setCode v len c).heap = s.heap := rfl
@[simp] theorem State.setCode_heapSize (s : State) (v len : Byte) (c : Code) : (s.setCode v len c).heapSize = s.heapSize := rfl
@[simp] theorem State.setCode_codeLen (s : State) (v len : Byte) (c : Code) : (s.setCode v len c).codeLen = s.codeLen.set (symIndex v) len := rfl
@[simp] theorem State.setCode_codeBits (s : State) (v len : Byte) (c : Code) : (s.setCode v len c).codeBits = s.codeBits.set (symIndex v) c := rfl
@[simp] theorem State.setCode_acc (s : State) (v len : Byte) (c : Code) : (s.setCode v len c).acc = s.acc := rfl
@[simp] theorem State.setCode_accN (s : State) (v len : Byte) (c : Code) : (s.setCode v len c).accN = s.accN := rfl
@[simp] theorem State.setCode_cur (s : State) (v len : Byte) (c : Code) : (s.setCode v len c).cur = s.cur := rfl
@[simp] theorem State.setCode_stack (s : State) (v len : Byte) (c : Code) : (s.setCode v len c).stack = s.stack := rfl
@[simp] theorem State.setCode_inCount (s : State) (v len : Byte) (c : Code) : (s.setCode v len c).inCount = s.inCount := rfl
@[simp] theorem State.setCode_outCount (s : State) (v len : Byte) (c : Code) : (s.setCode v len c).outCount = s.outCount := rfl
@[simp] theorem State.setCode_inq (s : State) (v len : Byte) (c : Code) : (s.setCode v len c).inq = s.inq := rfl
@[simp] theorem State.setCode_out (s : State) (v len : Byte) (c : Code) : (s.setCode v len c).out = s.out := rfl
@[simp] theorem State.setCode_sink (s : State) (v len : Byte) (c : Code) : (s.setCode v len c).sink = s.sink := rfl
@[simp] theorem State.setCode_host (s : State) (v len : Byte) (c : Code) : (s.setCode v len c).host = s.host := rfl
@[simp] theorem State.setCode_pace (s : State) (v len : Byte) (c : Code) : (s.setCode v len c).pace = s.pace := rfl
@[simp] theorem State.setCode_busData (s : State) (v len : Byte) (c : Code) : (s.setCode v len c).busData = s.busData := rfl
@[simp] theorem State.setCode_draws (s : State) (v len : Byte) (c : Code) : (s.setCode v len c).draws = s.draws := rfl
@[simp] theorem State.setCode_sinkRest (s : State) (v len : Byte) (c : Code) : (s.setCode v len c).sinkRest = s.sinkRest := rfl
@[simp] theorem State.setCode_inReset (s : State) (v len : Byte) (c : Code) : (s.setCode v len c).inReset = s.inReset := rfl

/-! ### discardTree -/

@[simp] theorem State.discardTree_seq (s : State) : (s.discardTree).seq = s.seq := rfl
@[simp] theorem State.discardTree_done (s : State) : (s.discardTree).done = s.done := rfl
@[simp] theorem State.discardTree_rej (s : State) : (s.discardTree).rej = s.rej := rfl
@[simp] theorem State.discardTree_emptyArt (s : State) : (s.discardTree).emptyArt = s.emptyArt := rfl
@[simp] theorem State.discardTree_midwalk (s : State) : (s.discardTree).midwalk = s.midwalk := rfl
@[simp] theorem State.discardTree_err (s : State) : (s.discardTree).err = s.err := rfl
@[simp] theorem State.discardTree_freq (s : State) : (s.discardTree).freq = s.freq := rfl
@[simp] theorem State.discardTree_total (s : State) : (s.discardTree).total = s.total := rfl
@[simp] theorem State.discardTree_nsym (s : State) : (s.discardTree).nsym = s.nsym := rfl
@[simp] theorem State.discardTree_node (s : State) : (s.discardTree).node = .fill 255 .clear := rfl
@[simp] theorem State.discardTree_nextInt (s : State) : (s.discardTree).nextInt = Config.firstInternal := rfl
@[simp] theorem State.discardTree_root (s : State) : (s.discardTree).root = Config.nil := rfl
@[simp] theorem State.discardTree_heap (s : State) : (s.discardTree).heap = .fill 256 Config.nil := rfl
@[simp] theorem State.discardTree_heapSize (s : State) : (s.discardTree).heapSize = 0 := rfl
@[simp] theorem State.discardTree_codeLen (s : State) : (s.discardTree).codeLen = s.codeLen := rfl
@[simp] theorem State.discardTree_codeBits (s : State) : (s.discardTree).codeBits = s.codeBits := rfl
@[simp] theorem State.discardTree_acc (s : State) : (s.discardTree).acc = s.acc := rfl
@[simp] theorem State.discardTree_accN (s : State) : (s.discardTree).accN = s.accN := rfl
@[simp] theorem State.discardTree_cur (s : State) : (s.discardTree).cur = s.cur := rfl
@[simp] theorem State.discardTree_stack (s : State) : (s.discardTree).stack = s.stack := rfl
@[simp] theorem State.discardTree_inCount (s : State) : (s.discardTree).inCount = s.inCount := rfl
@[simp] theorem State.discardTree_outCount (s : State) : (s.discardTree).outCount = s.outCount := rfl
@[simp] theorem State.discardTree_inq (s : State) : (s.discardTree).inq = s.inq := rfl
@[simp] theorem State.discardTree_out (s : State) : (s.discardTree).out = s.out := rfl
@[simp] theorem State.discardTree_sink (s : State) : (s.discardTree).sink = s.sink := rfl
@[simp] theorem State.discardTree_host (s : State) : (s.discardTree).host = s.host := rfl
@[simp] theorem State.discardTree_pace (s : State) : (s.discardTree).pace = s.pace := rfl
@[simp] theorem State.discardTree_busData (s : State) : (s.discardTree).busData = s.busData := rfl
@[simp] theorem State.discardTree_draws (s : State) : (s.discardTree).draws = s.draws := rfl
@[simp] theorem State.discardTree_sinkRest (s : State) : (s.discardTree).sinkRest = s.sinkRest := rfl
@[simp] theorem State.discardTree_inReset (s : State) : (s.discardTree).inReset = s.inReset := rfl

/-! ### setLive -/

@[simp] theorem State.setLive_seq (s : State) (n : Nat) : (s.setLive n).seq = s.seq := rfl
@[simp] theorem State.setLive_done (s : State) (n : Nat) : (s.setLive n).done = s.done := rfl
@[simp] theorem State.setLive_rej (s : State) (n : Nat) : (s.setLive n).rej = s.rej := rfl
@[simp] theorem State.setLive_emptyArt (s : State) (n : Nat) : (s.setLive n).emptyArt = s.emptyArt := rfl
@[simp] theorem State.setLive_midwalk (s : State) (n : Nat) : (s.setLive n).midwalk = s.midwalk := rfl
@[simp] theorem State.setLive_err (s : State) (n : Nat) : (s.setLive n).err = s.err := rfl
@[simp] theorem State.setLive_freq (s : State) (n : Nat) : (s.setLive n).freq = s.freq := rfl
@[simp] theorem State.setLive_total (s : State) (n : Nat) : (s.setLive n).total = s.total := rfl
@[simp] theorem State.setLive_nsym (s : State) (n : Nat) : (s.setLive n).nsym = s.nsym := rfl
@[simp] theorem State.setLive_node (s : State) (n : Nat) : (s.setLive n).node = s.node := rfl
@[simp] theorem State.setLive_nextInt (s : State) (n : Nat) : (s.setLive n).nextInt = s.nextInt := rfl
@[simp] theorem State.setLive_root (s : State) (n : Nat) : (s.setLive n).root = s.root := rfl
@[simp] theorem State.setLive_heap (s : State) (n : Nat) : (s.setLive n).heap = s.heap := rfl
@[simp] theorem State.setLive_heapSize (s : State) (n : Nat) : (s.setLive n).heapSize = BitVec.ofNat 9 n := rfl
@[simp] theorem State.setLive_codeLen (s : State) (n : Nat) : (s.setLive n).codeLen = s.codeLen := rfl
@[simp] theorem State.setLive_codeBits (s : State) (n : Nat) : (s.setLive n).codeBits = s.codeBits := rfl
@[simp] theorem State.setLive_acc (s : State) (n : Nat) : (s.setLive n).acc = s.acc := rfl
@[simp] theorem State.setLive_accN (s : State) (n : Nat) : (s.setLive n).accN = s.accN := rfl
@[simp] theorem State.setLive_cur (s : State) (n : Nat) : (s.setLive n).cur = s.cur := rfl
@[simp] theorem State.setLive_stack (s : State) (n : Nat) : (s.setLive n).stack = s.stack := rfl
@[simp] theorem State.setLive_inCount (s : State) (n : Nat) : (s.setLive n).inCount = s.inCount := rfl
@[simp] theorem State.setLive_outCount (s : State) (n : Nat) : (s.setLive n).outCount = s.outCount := rfl
@[simp] theorem State.setLive_inq (s : State) (n : Nat) : (s.setLive n).inq = s.inq := rfl
@[simp] theorem State.setLive_out (s : State) (n : Nat) : (s.setLive n).out = s.out := rfl
@[simp] theorem State.setLive_sink (s : State) (n : Nat) : (s.setLive n).sink = s.sink := rfl
@[simp] theorem State.setLive_host (s : State) (n : Nat) : (s.setLive n).host = s.host := rfl
@[simp] theorem State.setLive_pace (s : State) (n : Nat) : (s.setLive n).pace = s.pace := rfl
@[simp] theorem State.setLive_busData (s : State) (n : Nat) : (s.setLive n).busData = s.busData := rfl
@[simp] theorem State.setLive_draws (s : State) (n : Nat) : (s.setLive n).draws = s.draws := rfl
@[simp] theorem State.setLive_sinkRest (s : State) (n : Nat) : (s.setLive n).sinkRest = s.sinkRest := rfl
@[simp] theorem State.setLive_inReset (s : State) (n : Nat) : (s.setLive n).inReset = s.inReset := rfl

/-! ### clearAcc -/

@[simp] theorem State.clearAcc_seq (s : State) : (s.clearAcc).seq = s.seq := rfl
@[simp] theorem State.clearAcc_done (s : State) : (s.clearAcc).done = s.done := rfl
@[simp] theorem State.clearAcc_rej (s : State) : (s.clearAcc).rej = s.rej := rfl
@[simp] theorem State.clearAcc_emptyArt (s : State) : (s.clearAcc).emptyArt = s.emptyArt := rfl
@[simp] theorem State.clearAcc_midwalk (s : State) : (s.clearAcc).midwalk = s.midwalk := rfl
@[simp] theorem State.clearAcc_err (s : State) : (s.clearAcc).err = s.err := rfl
@[simp] theorem State.clearAcc_freq (s : State) : (s.clearAcc).freq = s.freq := rfl
@[simp] theorem State.clearAcc_total (s : State) : (s.clearAcc).total = s.total := rfl
@[simp] theorem State.clearAcc_nsym (s : State) : (s.clearAcc).nsym = s.nsym := rfl
@[simp] theorem State.clearAcc_node (s : State) : (s.clearAcc).node = s.node := rfl
@[simp] theorem State.clearAcc_nextInt (s : State) : (s.clearAcc).nextInt = s.nextInt := rfl
@[simp] theorem State.clearAcc_root (s : State) : (s.clearAcc).root = s.root := rfl
@[simp] theorem State.clearAcc_heap (s : State) : (s.clearAcc).heap = s.heap := rfl
@[simp] theorem State.clearAcc_heapSize (s : State) : (s.clearAcc).heapSize = s.heapSize := rfl
@[simp] theorem State.clearAcc_codeLen (s : State) : (s.clearAcc).codeLen = s.codeLen := rfl
@[simp] theorem State.clearAcc_codeBits (s : State) : (s.clearAcc).codeBits = s.codeBits := rfl
@[simp] theorem State.clearAcc_acc (s : State) : (s.clearAcc).acc = 0 := rfl
@[simp] theorem State.clearAcc_accN (s : State) : (s.clearAcc).accN = 0 := rfl
@[simp] theorem State.clearAcc_cur (s : State) : (s.clearAcc).cur = s.cur := rfl
@[simp] theorem State.clearAcc_stack (s : State) : (s.clearAcc).stack = s.stack := rfl
@[simp] theorem State.clearAcc_inCount (s : State) : (s.clearAcc).inCount = s.inCount := rfl
@[simp] theorem State.clearAcc_outCount (s : State) : (s.clearAcc).outCount = s.outCount := rfl
@[simp] theorem State.clearAcc_inq (s : State) : (s.clearAcc).inq = s.inq := rfl
@[simp] theorem State.clearAcc_out (s : State) : (s.clearAcc).out = s.out := rfl
@[simp] theorem State.clearAcc_sink (s : State) : (s.clearAcc).sink = s.sink := rfl
@[simp] theorem State.clearAcc_host (s : State) : (s.clearAcc).host = s.host := rfl
@[simp] theorem State.clearAcc_pace (s : State) : (s.clearAcc).pace = s.pace := rfl
@[simp] theorem State.clearAcc_busData (s : State) : (s.clearAcc).busData = s.busData := rfl
@[simp] theorem State.clearAcc_draws (s : State) : (s.clearAcc).draws = s.draws := rfl
@[simp] theorem State.clearAcc_sinkRest (s : State) : (s.clearAcc).sinkRest = s.sinkRest := rfl
@[simp] theorem State.clearAcc_inReset (s : State) : (s.clearAcc).inReset = s.inReset := rfl

/-! ### consume -/

@[simp] theorem State.consume_seq (s : State) (t : Token) (ts : List Token) : (s.consume t ts).seq = s.seq := by cases t <;> rfl
@[simp] theorem State.consume_done (s : State) (t : Token) (ts : List Token) : (s.consume t ts).done = s.done := by cases t <;> rfl
@[simp] theorem State.consume_rej (s : State) (t : Token) (ts : List Token) : (s.consume t ts).rej = s.rej := by cases t <;> rfl
@[simp] theorem State.consume_emptyArt (s : State) (t : Token) (ts : List Token) : (s.consume t ts).emptyArt = s.emptyArt := by cases t <;> rfl
@[simp] theorem State.consume_midwalk (s : State) (t : Token) (ts : List Token) : (s.consume t ts).midwalk = s.midwalk := by cases t <;> rfl
@[simp] theorem State.consume_err (s : State) (t : Token) (ts : List Token) : (s.consume t ts).err = s.err := by cases t <;> rfl
@[simp] theorem State.consume_freq (s : State) (t : Token) (ts : List Token) : (s.consume t ts).freq = s.freq := by cases t <;> rfl
@[simp] theorem State.consume_total (s : State) (t : Token) (ts : List Token) : (s.consume t ts).total = s.total := by cases t <;> rfl
@[simp] theorem State.consume_nsym (s : State) (t : Token) (ts : List Token) : (s.consume t ts).nsym = s.nsym := by cases t <;> rfl
@[simp] theorem State.consume_node (s : State) (t : Token) (ts : List Token) : (s.consume t ts).node = s.node := by cases t <;> rfl
@[simp] theorem State.consume_nextInt (s : State) (t : Token) (ts : List Token) : (s.consume t ts).nextInt = s.nextInt := by cases t <;> rfl
@[simp] theorem State.consume_root (s : State) (t : Token) (ts : List Token) : (s.consume t ts).root = s.root := by cases t <;> rfl
@[simp] theorem State.consume_heap (s : State) (t : Token) (ts : List Token) : (s.consume t ts).heap = s.heap := by cases t <;> rfl
@[simp] theorem State.consume_heapSize (s : State) (t : Token) (ts : List Token) : (s.consume t ts).heapSize = s.heapSize := by cases t <;> rfl
@[simp] theorem State.consume_codeLen (s : State) (t : Token) (ts : List Token) : (s.consume t ts).codeLen = s.codeLen := by cases t <;> rfl
@[simp] theorem State.consume_codeBits (s : State) (t : Token) (ts : List Token) : (s.consume t ts).codeBits = s.codeBits := by cases t <;> rfl
@[simp] theorem State.consume_acc (s : State) (t : Token) (ts : List Token) : (s.consume t ts).acc = s.acc := by cases t <;> rfl
@[simp] theorem State.consume_accN (s : State) (t : Token) (ts : List Token) : (s.consume t ts).accN = s.accN := by cases t <;> rfl
@[simp] theorem State.consume_cur (s : State) (t : Token) (ts : List Token) : (s.consume t ts).cur = s.cur := by cases t <;> rfl
@[simp] theorem State.consume_stack (s : State) (t : Token) (ts : List Token) : (s.consume t ts).stack = s.stack := by cases t <;> rfl
@[simp] theorem State.consume_outCount (s : State) (t : Token) (ts : List Token) : (s.consume t ts).outCount = s.outCount := by cases t <;> rfl
@[simp] theorem State.consume_inq (s : State) (t : Token) (ts : List Token) : (s.consume t ts).inq = ts := by cases t <;> rfl
@[simp] theorem State.consume_out (s : State) (t : Token) (ts : List Token) : (s.consume t ts).out = s.out := by cases t <;> rfl
@[simp] theorem State.consume_sink (s : State) (t : Token) (ts : List Token) : (s.consume t ts).sink = s.sink := by cases t <;> rfl
@[simp] theorem State.consume_host (s : State) (t : Token) (ts : List Token) : (s.consume t ts).host = s.host := by cases t <;> rfl
@[simp] theorem State.consume_pace (s : State) (t : Token) (ts : List Token) : (s.consume t ts).pace = s.pace.map (· - 1) := by cases t <;> rfl
@[simp] theorem State.consume_busData (s : State) (t : Token) (ts : List Token) : (s.consume t ts).busData = s.busData := by cases t <;> rfl
@[simp] theorem State.consume_draws (s : State) (t : Token) (ts : List Token) : (s.consume t ts).draws = s.draws := by cases t <;> rfl
@[simp] theorem State.consume_sinkRest (s : State) (t : Token) (ts : List Token) : (s.consume t ts).sinkRest = s.sinkRest := by cases t <;> rfl
@[simp] theorem State.consume_inReset (s : State) (t : Token) (ts : List Token) : (s.consume t ts).inReset = s.inReset := by cases t <;> rfl

/-! ### setHeap -/

@[simp] theorem State.setHeap_seq (s : State) (i : Nat) (n : Idx) : (s.setHeap i n).seq = s.seq := by unfold State.setHeap; split <;> rfl
@[simp] theorem State.setHeap_done (s : State) (i : Nat) (n : Idx) : (s.setHeap i n).done = s.done := by unfold State.setHeap; split <;> rfl
@[simp] theorem State.setHeap_rej (s : State) (i : Nat) (n : Idx) : (s.setHeap i n).rej = s.rej := by unfold State.setHeap; split <;> rfl
@[simp] theorem State.setHeap_emptyArt (s : State) (i : Nat) (n : Idx) : (s.setHeap i n).emptyArt = s.emptyArt := by unfold State.setHeap; split <;> rfl
@[simp] theorem State.setHeap_midwalk (s : State) (i : Nat) (n : Idx) : (s.setHeap i n).midwalk = s.midwalk := by unfold State.setHeap; split <;> rfl
@[simp] theorem State.setHeap_err (s : State) (i : Nat) (n : Idx) : (s.setHeap i n).err = s.err := by unfold State.setHeap; split <;> rfl
@[simp] theorem State.setHeap_freq (s : State) (i : Nat) (n : Idx) : (s.setHeap i n).freq = s.freq := by unfold State.setHeap; split <;> rfl
@[simp] theorem State.setHeap_total (s : State) (i : Nat) (n : Idx) : (s.setHeap i n).total = s.total := by unfold State.setHeap; split <;> rfl
@[simp] theorem State.setHeap_nsym (s : State) (i : Nat) (n : Idx) : (s.setHeap i n).nsym = s.nsym := by unfold State.setHeap; split <;> rfl
@[simp] theorem State.setHeap_node (s : State) (i : Nat) (n : Idx) : (s.setHeap i n).node = s.node := by unfold State.setHeap; split <;> rfl
@[simp] theorem State.setHeap_nextInt (s : State) (i : Nat) (n : Idx) : (s.setHeap i n).nextInt = s.nextInt := by unfold State.setHeap; split <;> rfl
@[simp] theorem State.setHeap_root (s : State) (i : Nat) (n : Idx) : (s.setHeap i n).root = s.root := by unfold State.setHeap; split <;> rfl
@[simp] theorem State.setHeap_heapSize (s : State) (i : Nat) (n : Idx) : (s.setHeap i n).heapSize = s.heapSize := by unfold State.setHeap; split <;> rfl
@[simp] theorem State.setHeap_codeLen (s : State) (i : Nat) (n : Idx) : (s.setHeap i n).codeLen = s.codeLen := by unfold State.setHeap; split <;> rfl
@[simp] theorem State.setHeap_codeBits (s : State) (i : Nat) (n : Idx) : (s.setHeap i n).codeBits = s.codeBits := by unfold State.setHeap; split <;> rfl
@[simp] theorem State.setHeap_acc (s : State) (i : Nat) (n : Idx) : (s.setHeap i n).acc = s.acc := by unfold State.setHeap; split <;> rfl
@[simp] theorem State.setHeap_accN (s : State) (i : Nat) (n : Idx) : (s.setHeap i n).accN = s.accN := by unfold State.setHeap; split <;> rfl
@[simp] theorem State.setHeap_cur (s : State) (i : Nat) (n : Idx) : (s.setHeap i n).cur = s.cur := by unfold State.setHeap; split <;> rfl
@[simp] theorem State.setHeap_stack (s : State) (i : Nat) (n : Idx) : (s.setHeap i n).stack = s.stack := by unfold State.setHeap; split <;> rfl
@[simp] theorem State.setHeap_inCount (s : State) (i : Nat) (n : Idx) : (s.setHeap i n).inCount = s.inCount := by unfold State.setHeap; split <;> rfl
@[simp] theorem State.setHeap_outCount (s : State) (i : Nat) (n : Idx) : (s.setHeap i n).outCount = s.outCount := by unfold State.setHeap; split <;> rfl
@[simp] theorem State.setHeap_inq (s : State) (i : Nat) (n : Idx) : (s.setHeap i n).inq = s.inq := by unfold State.setHeap; split <;> rfl
@[simp] theorem State.setHeap_out (s : State) (i : Nat) (n : Idx) : (s.setHeap i n).out = s.out := by unfold State.setHeap; split <;> rfl
@[simp] theorem State.setHeap_sink (s : State) (i : Nat) (n : Idx) : (s.setHeap i n).sink = s.sink := by unfold State.setHeap; split <;> rfl
@[simp] theorem State.setHeap_host (s : State) (i : Nat) (n : Idx) : (s.setHeap i n).host = s.host := by unfold State.setHeap; split <;> rfl
@[simp] theorem State.setHeap_pace (s : State) (i : Nat) (n : Idx) : (s.setHeap i n).pace = s.pace := by unfold State.setHeap; split <;> rfl
@[simp] theorem State.setHeap_busData (s : State) (i : Nat) (n : Idx) : (s.setHeap i n).busData = s.busData := by unfold State.setHeap; split <;> rfl
@[simp] theorem State.setHeap_draws (s : State) (i : Nat) (n : Idx) : (s.setHeap i n).draws = s.draws := by unfold State.setHeap; split <;> rfl
@[simp] theorem State.setHeap_sinkRest (s : State) (i : Nat) (n : Idx) : (s.setHeap i n).sinkRest = s.sinkRest := by unfold State.setHeap; split <;> rfl
@[simp] theorem State.setHeap_inReset (s : State) (i : Nat) (n : Idx) : (s.setHeap i n).inReset = s.inReset := by unfold State.setHeap; split <;> rfl

/-! ### The two counts of consume -/

@[simp] theorem State.consume_byte_inCount (s : State) (b : Byte) (ts : List Token) :
    (s.consume (.byte b) ts).inCount = s.inCount + 1 := rfl
@[simp] theorem State.consume_endOfPass_inCount (s : State) (ts : List Token) :
    (s.consume .endOfPass ts).inCount = s.inCount := rfl
@[simp] theorem State.consume_fail_inCount (s : State) (ts : List Token) : (s.consume .fail ts).inCount = s.inCount := rfl

/-! ### Reset keeps the streams and the host's side (R168; log 10) -/

@[simp] theorem State.toReset_inq (s : State) : s.toReset.inq = s.inq := rfl
@[simp] theorem State.toReset_out (s : State) : s.toReset.out = s.out := rfl
@[simp] theorem State.toReset_sink (s : State) : s.toReset.sink = s.sink := rfl
@[simp] theorem State.toReset_sinkRest (s : State) : s.toReset.sinkRest = s.sinkRest := rfl
@[simp] theorem State.toReset_inReset (s : State) : s.toReset.inReset = s.inReset := rfl
@[simp] theorem State.toReset_host (s : State) : s.toReset.host = s.host := rfl
@[simp] theorem State.toReset_pace (s : State) : s.toReset.pace = s.pace := rfl
@[simp] theorem State.toReset_seq (s : State) : s.toReset.seq = .idle := rfl
@[simp] theorem State.softReset_inq (s : State) : s.softReset.inq = s.inq := rfl
@[simp] theorem State.softReset_out (s : State) : s.softReset.out = s.out := rfl
@[simp] theorem State.softReset_seq (s : State) : s.softReset.seq = .idle := rfl
@[simp] theorem State.softReset_done (s : State) : s.softReset.done = true := rfl
@[simp] theorem State.softReset_err (s : State) : s.softReset.err = .none := rfl

/-- A state at its reset values stays as it is (R166). -/
@[simp] theorem State.toReset_toReset (s : State) : s.toReset.toReset = s.toReset := rfl
@[simp] theorem State.resetTo_inReset (s : State) (level : Bool) : (s.resetTo level).inReset = level := rfl
@[simp] theorem State.resetTo_toReset (s : State) (level : Bool) : (s.resetTo level).toReset = s.resetTo level := rfl
@[simp] theorem State.resetTo_inq (s : State) (level : Bool) : (s.resetTo level).inq = s.inq := rfl
@[simp] theorem State.resetTo_out (s : State) (level : Bool) : (s.resetTo level).out = s.out := rfl
@[simp] theorem State.resetTo_seq (s : State) (level : Bool) : (s.resetTo level).seq = .idle := rfl

/-! ### Derived status -/

@[simp] theorem State.busy_idle {s : State} (h : s.seq = .idle) : s.busy = false := by simp [State.busy, h]
@[simp] theorem State.busy_running {s : State} {op : Byte} {pos : Pos} {todo : List Stage} (h : s.seq = .running op pos todo) :
    s.busy = true := by simp [State.busy, h]
theorem State.busy_eq_false_iff {s : State} : s.busy = false ↔ s.seq = .idle := by
  unfold State.busy; cases s.seq <;> simp
theorem State.busy_eq_true_iff {s : State} : s.busy = true ↔ s.seq ≠ .idle := by
  unfold State.busy; cases s.seq <;> simp
theorem State.errSet_eq_false_iff {s : State} : s.errSet = false ↔ s.err.code = 0 := by simp [State.errSet]
theorem State.errSet_eq_true_iff {s : State} : s.errSet = true ↔ s.err.code ≠ 0 := by simp [State.errSet]

/-! ### Pace (log 3) -/

theorem State.held_iff {s : State} : s.held = true ↔ s.pace = some 0 := by simp [State.held]
@[simp] theorem State.held_none {s : State} (h : s.pace = none) : s.held = false := by simp [State.held, h]
theorem State.tick_none {s : State} (h : s.pace = none) : s.tick = s := by
  cases s; simp only [State.tick] at *; subst h; rfl
theorem State.tick_pace_none {s : State} (h : s.pace = none) : s.tick.pace = none := by simp [h]

end Sys2Proof.Machine
end

