-- ==== Sys2Proof/Laws/Table.lean ====
section
/-! SUPPORT. Tables and indices: read after write, equality by entries, and which index is which. -/

namespace Sys2Proof.Machine

open Sys2Proof

@[simp] theorem Table.get_fill {α : Type} {n : Nat} (a : α) (i : Fin n) : (Table.fill n a).get i = a := by
  simp [Table.get, Table.fill]

theorem Table.get_set {α : Type} {n : Nat} (t : Table α n) (i j : Fin n) (a : α) :
    (t.set i a).get j = if i = j then a else t.get j := by
  simp [Table.get, Table.set, List.getElem_set, Fin.ext_iff]

@[simp] theorem Table.get_set_self {α : Type} {n : Nat} (t : Table α n) (i : Fin n) (a : α) : (t.set i a).get i = a := by
  simp [Table.get_set]

theorem Table.get_set_ne {α : Type} {n : Nat} (t : Table α n) {i j : Fin n} (a : α) (h : i ≠ j) : (t.set i a).get j = t.get j := by
  simp [Table.get_set, h]

theorem Table.ext_get {α : Type} {n : Nat} {t u : Table α n} (h : ∀ i, t.get i = u.get i) : t = u := by
  obtain ⟨l, hl⟩ := t
  obtain ⟨m, hm⟩ := u
  have : l = m := List.ext_getElem (by omega) fun i h1 h2 => by
    simpa [Table.get] using h ⟨i, by omega⟩
  subst this
  rfl

@[simp] theorem Table.set_get_self {α : Type} {n : Nat} (t : Table α n) (i : Fin n) : t.set i (t.get i) = t :=
  Table.ext_get fun j => by by_cases h : i = j <;> simp [Table.get_set, h]

theorem symIndex_inj {u v : Byte} : symIndex u = symIndex v ↔ u = v := by
  simp [symIndex, Fin.ext_iff, BitVec.toNat_eq]

theorem State.freqOf_setFreq (s : State) (u v : Byte) (f : Word) :
    (s.setFreq u f).freqOf v = if u = v then f else s.freqOf v := by
  simp [State.freqOf, State.setFreq, Table.get_set, symIndex_inj]

theorem leafSlot_toNat (v : Byte) : (leafSlot v).toNat = v.toNat := by
  have := v.isLt
  simp [leafSlot]
  omega

theorem leafSlot_inj {u v : Byte} : leafSlot u = leafSlot v ↔ u = v := by
  simp [BitVec.toNat_eq, leafSlot_toNat]

@[simp] theorem isLeaf_leafSlot (v : Byte) : isLeaf (leafSlot v) = true := by
  have := v.isLt
  simp [isLeaf, leafSlot_toNat]
  omega

@[simp] theorem leafValue_leafSlot (v : Byte) : leafValue (leafSlot v) = v := by
  have := v.isLt
  apply BitVec.eq_of_toNat_eq
  simp [leafValue, leafSlot_toNat]
  omega

theorem leafSlot_leafValue {n : Idx} (h : isLeaf n = true) : leafSlot (leafValue n) = n := by
  simp [isLeaf] at h
  apply BitVec.eq_of_toNat_eq
  rw [leafSlot_toNat]
  simp [leafValue]
  omega

theorem slot?_eq_some_iff {n : Idx} {j : Fin 255} : slot? n = some j ↔ n.toNat = 256 + j.val := by
  have := j.isLt
  unfold slot?
  split
  · rename_i h
    simp [Fin.ext_iff]
    omega
  · rename_i h
    simp
    omega

theorem slot?_eq_none_iff {n : Idx} : slot? n = none ↔ isLeaf n = true ∨ n = Config.nil := by
  have h : n.toNat < 512 := n.isLt
  have hn : n = Config.nil ↔ n.toNat = 511 := by
    rw [BitVec.toNat_eq]
    rfl
  rw [hn]
  simp only [slot?, isLeaf, decide_eq_true_eq]
  split <;> simp <;> omega

@[simp] theorem slot?_leafSlot (v : Byte) : slot? (leafSlot v) = none := slot?_eq_none_iff.2 (.inl (isLeaf_leafSlot v))

@[simp] theorem State.weight_leafSlot (s : State) (v : Byte) : s.weight (leafSlot v) = s.freqOf v := by simp [State.weight]

end Sys2Proof.Machine
end

