-- ==== Sys2Proof/Laws/Ops.lean ====
section
/-! SUPPORT. One law for each shared operation, saying once everything it can do. Proofs cite these and do not unfold the operation. -/

namespace Sys2Proof.Machine

open Sys2Proof

/-! ### Node RAM and stack -/

theorem State.setNode_ok {s t : State} {n : Idx} {nd : Node} :
    s.setNode n nd = .ok t ↔ ∃ j, slot? n = some j ∧ t = { s with node := s.node.set j nd } := by
  unfold State.setNode
  cases h : slot? n <;> simp [eq_comm]

theorem State.alloc_ok {s t : State} {nd : Node} :
    s.alloc nd = .ok t ↔
      ∃ j, slot? s.nextInt = some j ∧ t = { s with node := s.node.set j nd, nextInt := s.nextInt + 1 } := by
  unfold State.alloc State.setNode
  cases h : slot? s.nextInt <;> simp [eq_comm]

theorem State.alloc_error {s : State} {nd : Node} {f : Fault} :
    s.alloc nd = .error f ↔ slot? s.nextInt = none ∧ f = .noSlot := by
  unfold State.alloc State.setNode
  cases h : slot? s.nextInt <;> simp [eq_comm]

theorem State.child_ok {s : State} {side : Side} {n c : Idx} :
    s.child side n = .ok c ↔ ∃ j, slot? n = some j ∧
      c = match side with | .left => (s.node.get j).left | .right => (s.node.get j).right := by
  unfold State.child
  cases h : slot? n <;> cases side <;> simp [eq_comm]

theorem State.child_of_slot {s : State} {n : Idx} {j : Fin 255} (h : slot? n = some j) :
    s.child .left n = .ok (s.node.get j).left ∧ s.child .right n = .ok (s.node.get j).right := by
  simp [State.child, h]

theorem State.child_error {s : State} {side : Side} {n : Idx} {f : Fault} :
    s.child side n = .error f ↔ slot? n = none ∧ f = .notInternal := by
  unfold State.child
  cases h : slot? n <;> cases side <;> simp [eq_comm]

theorem State.push_ok {s t : State} {e : StackEntry} :
    s.push e = .ok t ↔ s.stack.length < 256 ∧ t = { s with stack := e :: s.stack } := by
  unfold State.push Config.stackDepth
  split <;> simp_all [eq_comm]

theorem State.push_error {s : State} {e : StackEntry} {f : Fault} :
    s.push e = .error f ↔ 256 ≤ s.stack.length ∧ f = .stackFull := by
  unfold State.push Config.stackDepth
  split <;> simp_all [eq_comm]

/-! ### Emit (R16, R177) -/

/-- The state after the sink accepts b. -/
def State.emitted (s : State) (b : Byte) (rest : List SinkAnswer) : State :=
  { s.tick with sink := rest, out := s.out ++ [b], outCount := s.outCount + 1 }

theorem State.emit_accepted {s t : State} {b : Byte} :
    s.emit b = .accepted t ↔ s.held = false ∧ ∃ rest, s.nextAnswer = some (.ok, rest) ∧ t = s.emitted b rest := by
  unfold State.emit State.emitted
  cases s.held
  · rcases s.nextAnswer with _ | ⟨_ | _, rest⟩ <;> simp [eq_comm]
  · simp

theorem State.emit_failed {s t : State} {b : Byte} :
    s.emit b = .failed t ↔ s.held = false ∧ ∃ rest, s.nextAnswer = some (.fail, rest) ∧ t = { s.tick with sink := rest } := by
  unfold State.emit
  cases s.held
  · rcases s.nextAnswer with _ | ⟨_ | _, rest⟩ <;> simp [eq_comm]
  · simp

theorem State.emit_waiting {s : State} {b : Byte} : s.emit b = .waiting ↔ s.held = true ∨ s.nextAnswer = none := by
  unfold State.emit
  cases s.held
  · rcases s.nextAnswer with _ | ⟨_ | _, rest⟩ <;> simp
  · simp

theorem State.nextAnswer_none {s : State} : s.nextAnswer = none ↔ s.sink = [] ∧ s.sinkRest = none := by
  unfold State.nextAnswer
  cases s.sink <;> simp

/-- The next answer is the first coming one, and takes it out of the queue. -/
theorem State.nextAnswer_some {s : State} {a : SinkAnswer} {later : List SinkAnswer} :
    s.nextAnswer = some (a, later) ↔ s.sink[0]?.or s.sinkRest = some a ∧ later = s.sink.drop 1 := by
  unfold State.nextAnswer
  cases s.sink <;> simp [eq_comm]

/-- Emit with an accepting answer ready and an engine that is not held. -/
theorem State.emit_of_ok {s : State} {b : Byte} {rest : List SinkAnswer} (hp : s.pace = none) (hs : s.nextAnswer = some (.ok, rest)) :
    s.emit b = .accepted { s with sink := rest, out := s.out ++ [b], outCount := s.outCount + 1 } := by
  rw [State.emit_accepted]
  exact ⟨by simp [hp], rest, hs, by simp [State.emitted, State.tick_none hp]⟩

/-- Emit with a failing answer ready and an engine that is not held. -/
theorem State.emit_of_fail {s : State} {b : Byte} {rest : List SinkAnswer} (hp : s.pace = none) (hs : s.nextAnswer = some (.fail, rest)) :
    s.emit b = .failed { s with sink := rest } := by
  rw [State.emit_failed]
  exact ⟨by simp [hp], rest, hs, by simp [State.tick_none hp]⟩

/-! ### The token loop (R15, R177) -/

section loop
variable {σ : Type} {pos : σ → Pos} {body : σ → Token → State → LoopStep σ}

@[simp] theorem overTokens_nil (x : σ) (s : State) : overTokens pos body [] x s = .wait (pos x) [] s := rfl

theorem overTokens_held {t : Token} {ts : List Token} {x : σ} {s : State} (h : s.held = true) :
    overTokens pos body (t :: ts) x s = .wait (pos x) [] s := by simp [overTokens, h]

theorem overTokens_more {t : Token} {ts : List Token} {x x' : σ} {s s' : State} (h : s.held = false)
    (hb : body x t (s.consume t ts) = .more x' s') : overTokens pos body (t :: ts) x s = overTokens pos body ts x' s' := by
  simp [overTokens, h, hb]

theorem overTokens_stop {t : Token} {ts : List Token} {x : σ} {s : State} {r : Run} (h : s.held = false)
    (hb : body x t (s.consume t ts) = .stop r) : overTokens pos body (t :: ts) x s = r := by
  simp [overTokens, h, hb]

/-- Induction over a token loop, once: what holds when the loop starts and is kept by every iteration holds of the way it ends. -/
theorem overTokens_induct {P : σ → State → Prop} {Q : Run → Prop}
    (wait : ∀ x s, P x s → Q (.wait (pos x) [] s))
    (more : ∀ x s t ts, P x s → s.inq = t :: ts → s.held = false → ∀ x' s', body x t (s.consume t ts) = .more x' s' →
      s'.inq = ts ∧ P x' s')
    (stop : ∀ x s t ts, P x s → s.inq = t :: ts → s.held = false → ∀ r, body x t (s.consume t ts) = .stop r → Q r)
    (ts : List Token) (x : σ) (s : State) (hs : s.inq = ts) (h : P x s) : Q (overTokens pos body ts x s) := by
  induction ts generalizing x s with
  | nil => exact wait x s h
  | cons t ts ih =>
    cases hh : s.held
    · cases hb : body x t (s.consume t ts) with
      | more x' s' =>
        rw [overTokens_more hh hb]
        have := more x s t ts h hs hh x' s' hb
        exact ih x' s' this.1 this.2
      | stop r =>
        rw [overTokens_stop hh hb]
        exact stop x s t ts h hs hh r hb
    · rw [overTokens_held hh]
      exact wait x s h

end loop

/-! ### The lifecycle (R91 to R93, R150) -/

theorem settle_ret (op : Byte) (s : State) :
    settle op (.ret s) = .next (if s.held then { s with seq := .running op .leave [] } else s.tick.complete) := rfl
theorem settle_raised (op : Byte) (e : ErrorKind) (info : Byte) (s : State) : settle op (.raised e info s) =
    .next (if s.held then { s with seq := .running op (.fail e info) [] } else s.tick.raiseError op e info) := rfl
@[simp] theorem settle_wait (op : Byte) (pos : Pos) (todo : List Stage) (s : State) :
    settle op (.wait pos todo s) = .next { s with seq := .running op pos todo } := rfl
@[simp] theorem settle_reset (op : Byte) (s : State) : settle op (.reset s) = .next s := rfl
@[simp] theorem settle_stuck (op : Byte) (f : Fault) : settle op (.stuck f) = .fault f := rfl

/-- A returning body completes when the engine is not held at all. -/
theorem settle_ret_free (op : Byte) {s : State} (h : s.pace = none) : settle op (.ret s) = .next s.complete := by
  simp [settle_ret, h, State.tick_none h]

/-- A raise takes effect when the engine is not held at all. -/
theorem settle_raised_free (op : Byte) (e : ErrorKind) (info : Byte) {s : State} (h : s.pace = none) :
    settle op (.raised e info s) = .next (s.raiseError op e info) := by
  simp [settle_raised, h, State.tick_none h]

/-- Everything settle can answer as a next state. -/
theorem settle_next {op : Byte} {r : Run} {t : State} : settle op r = .next t ↔
    (∃ s, r = .ret s ∧ s.held = false ∧ t = s.tick.complete) ∨
      (∃ s, r = .ret s ∧ s.held = true ∧ t = { s with seq := .running op .leave [] }) ∨
      (∃ e info s, r = .raised e info s ∧ s.held = false ∧ t = s.tick.raiseError op e info) ∨
      (∃ e info s, r = .raised e info s ∧ s.held = true ∧ t = { s with seq := .running op (.fail e info) [] }) ∨
      (∃ pos todo s, r = .wait pos todo s ∧ t = { s with seq := .running op pos todo }) ∨ r = .reset t := by
  cases r with
  | ret s => cases h : s.held <;> simp [settle_ret, h, @eq_comm _ t]
  | raised e info s => cases h : s.held <;> simp [settle_raised, h, @eq_comm _ t]
  | wait pos todo s => simp [@eq_comm _ t]
  | reset s => simp
  | stuck f => simp

theorem settle_never_refuses (op : Byte) (r : Run) (f : Refusal) : settle op r ≠ .refused f := by
  cases r <;> simp [settle_ret, settle_raised]

/-- A command offered while BUSY = 1 or ERR = 1 is dropped. -/
theorem command_rejected {op : Byte} {first : Stage} {todo : List Stage} {body : State → Run} {s : State}
    (h : s.busy = true ∨ s.errSet = true) : command op first todo body s = .next s.reject := by
  unfold command
  rcases h with h | h <;> simp [h]

/-- A command offered while BUSY = 0 and ERR = 0 is accepted. -/
theorem command_accepted {op : Byte} {first : Stage} {todo : List Stage} {body : State → Run} {s : State}
    (hb : s.busy = false) (he : s.errSet = false) : command op first todo body s = launch op first todo body s := by
  simp [command, hb, he]

/-- An accepted command held before its first step. -/
theorem launch_held {op : Byte} {first : Stage} {todo : List Stage} {body : State → Run} {s : State} (h : s.held = true) :
    launch op first todo body s = .next (s.accept op (.enter first) todo) := by
  have : (s.accept op (.enter first) todo).held = true := by simpa [State.held] using h
  simp only [launch, this, if_true, settle_wait]
  rfl

/-- An accepted command that is not held runs its body. -/
theorem launch_runs {op : Byte} {first : Stage} {todo : List Stage} {body : State → Run} {s : State} (h : s.held = false) :
    launch op first todo body s = settle op (body (s.accept op (.enter first) todo).tick) := by
  have : (s.accept op (.enter first) todo).held = false := by simpa [State.held] using h
  simp [launch, this]

/-- The state a command's body starts in, when the engine is not held at all. -/
theorem accept_tick_none {s : State} (op : Byte) (pos : Pos) (todo : List Stage) (h : s.pace = none) :
    (s.accept op pos todo).tick = s.accept op pos todo := State.tick_none (by simpa using h)

/-- A command in a ready block (no command, no error, an engine that is not held). -/
theorem command_ready {op : Byte} {first : Stage} {todo : List Stage} {body : State → Run} {s : State}
    (hq : s.seq = .idle) (he : s.err.code = 0) (hp : s.pace = none) :
    command op first todo body s = settle op (body (s.accept op (.enter first) todo)) := by
  rw [command_accepted (State.busy_idle hq) (State.errSet_eq_false_iff.2 he), launch_runs (by simp [hp]), accept_tick_none _ _ _ hp]

/-- Everything a command can answer as a next state. -/
theorem command_next {op : Byte} {first : Stage} {todo : List Stage} {body : State → Run} {s t : State} :
    command op first todo body s = .next t ↔
      ((s.busy = true ∨ s.errSet = true) ∧ t = s.reject) ∨
      (s.busy = false ∧ s.errSet = false ∧ s.held = true ∧ t = s.accept op (.enter first) todo) ∨
      (s.busy = false ∧ s.errSet = false ∧ s.held = false ∧
        settle op (body (s.accept op (.enter first) todo).tick) = .next t) := by
  cases hb : s.busy
  · cases he : s.errSet
    · rw [command_accepted hb he]
      cases hh : s.held
      · rw [launch_runs hh]; simp
      · rw [launch_held hh]; simpa using eq_comm
    · rw [command_rejected (.inr he)]; simpa using eq_comm
  · rw [command_rejected (.inl hb)]; simpa using eq_comm

/-! ### Completion and failure as one update -/

theorem accept_complete (s : State) (op : Byte) (pos : Pos) (todo : List Stage) :
    (s.accept op pos todo).complete =
      { s with seq := .idle, done := true, emptyArt := false, midwalk := false, inCount := 0, outCount := 0 } := rfl

end Sys2Proof.Machine
end

