-- ==== Sys2Proof/Laws/Engine.lean ====
section
/-! SUPPORT. The engine's sequencing, the host's actions and the step: one law for each. -/

namespace Sys2Proof.Machine

open Sys2Proof

@[simp] theorem Run.chain_nil (r : Run) : r.chain [] = r := rfl
@[simp] theorem Run.chain_cons (r : Run) (c : Stage) (cs : List Stage) : r.chain (c :: cs) = (r.andThen c).chain cs := rfl
theorem Run.andThen_ret (s : State) (c : Stage) :
    (Run.ret s).andThen c = if s.held then .wait (.enter c) [] s else stageBody c s.tick := rfl
@[simp] theorem Run.andThen_reset (s : State) (c : Stage) : (Run.reset s).andThen c = .reset s := rfl
@[simp] theorem Run.andThen_raised (e : ErrorKind) (info : Byte) (s : State) (c : Stage) :
    (Run.raised e info s).andThen c = .raised e info s := rfl
@[simp] theorem Run.andThen_wait (pos : Pos) (todo : List Stage) (s : State) (c : Stage) :
    (Run.wait pos todo s).andThen c = .wait pos (todo ++ [c]) s := rfl
@[simp] theorem Run.andThen_stuck (f : Fault) (c : Stage) : (Run.stuck f).andThen c = .stuck f := rfl

/-- A raise ends the whole composite (48_composite.md R139). -/
@[simp] theorem Run.chain_raised (e : ErrorKind) (info : Byte) (s : State) (cs : List Stage) :
    (Run.raised e info s).chain cs = .raised e info s := by
  induction cs with
  | nil => rfl
  | cons c cs ih => simpa using ih

@[simp] theorem Run.chain_reset (s : State) (cs : List Stage) : (Run.reset s).chain cs = .reset s := by
  induction cs with
  | nil => rfl
  | cons c cs ih => simpa using ih

@[simp] theorem Run.chain_stuck (f : Fault) (cs : List Stage) : (Run.stuck f).chain cs = .stuck f := by
  induction cs with
  | nil => rfl
  | cons c cs ih => simpa using ih

/-- A wait keeps the stages for later. -/
@[simp] theorem Run.chain_wait (pos : Pos) (todo : List Stage) (s : State) (cs : List Stage) :
    (Run.wait pos todo s).chain cs = .wait pos (todo ++ cs) s := by
  induction cs generalizing todo with
  | nil => simp
  | cons c cs ih => simp [ih]

theorem Run.chain_append (r : Run) (cs ds : List Stage) : r.chain (cs ++ ds) = (r.chain cs).chain ds := by
  simp [Run.chain]

/-- The next stage runs when the engine is not held at all. -/
theorem Run.andThen_free {s : State} (h : s.pace = none) (c : Stage) : (Run.ret s).andThen c = stageBody c s := by
  simp [Run.andThen_ret, h, State.tick_none h]

/-- Induction over the stages of a composite, once: what holds when it starts, is kept by a transfer and by every stage holds of the way it
ends. -/
theorem Run.chain_induct {P : State → Prop} {Q : Run → Prop} (ret : ∀ s, P s → Q (.ret s)) (tick : ∀ s, P s → P s.tick)
    (held : ∀ c cs s, P s → Q (.wait (.enter c) cs s))
    (body : ∀ c s, P s → (∀ s', stageBody c s = .ret s' → P s') ∧
      (∀ e i s', stageBody c s = .raised e i s' → Q (.raised e i s')) ∧
      (∀ cs p todo s', stageBody c s = .wait p todo s' → Q (.wait p (todo ++ cs) s')) ∧
      (∀ s', stageBody c s = .reset s' → Q (.reset s')) ∧ ∀ f, stageBody c s = .stuck f → Q (.stuck f))
    (cs : List Stage) (s : State) (h : P s) : Q ((Run.ret s).chain cs) := by
  induction cs generalizing s with
  | nil => exact ret s h
  | cons c cs ih =>
    rw [Run.chain_cons, Run.andThen_ret]
    split
    · simpa using held c cs s h
    · obtain ⟨hr, he, hw, hz, hf⟩ := body c s.tick (tick s h)
      cases hb : stageBody c s.tick with
      | ret s' => exact ih s' (hr s' hb)
      | raised e i s' => simpa using he e i s' hb
      | reset s' => simpa using hz s' hb
      | wait p todo s' => simpa using hw cs p todo s' hb
      | stuck f => simpa using hf f hb

/-- ParseHeader's success when the engine is not held at all. -/
theorem finishHeader_free {r : Idx} {s : State} (h : s.pace = none) : finishHeader r s = .ret { s with root := r } := by
  simp [finishHeader, h, State.tick_none h]
theorem finishHeader_held {r : Idx} {s : State} (h : s.held = true) : finishHeader r s = .wait (.setRoot r) [] s := if_pos h

theorem State.resume_idle {s : State} (h : s.seq = .idle) : s.resume = .next s := by simp [State.resume, h]
theorem State.resume_running {s : State} {op : Byte} {pos : Pos} {todo : List Stage} (h : s.seq = .running op pos todo) :
    s.resume = settle op ((resumeAt pos s).chain todo) := by simp [State.resume, h]

theorem regAt_cmd : regAt 0x0008 = some .cmd := by decide
theorem regAt_status : regAt 0x000C = some .status := by decide
@[simp] theorem regOffset_cmd : Reg.cmd.offset = 0x0008 := rfl
@[simp] theorem regOffset_status : Reg.status.offset = 0x000C := rfl

theorem memWrite_cmd (w : Word) (s : State) : memWrite 0x0008 w s = writeCmd w s := by rw [memWrite, regAt_cmd]
theorem memWrite_status (v : Word) (s : State) : memWrite 0x000C v s = .next (s.writeStatus v) := by rw [memWrite, regAt_status]

theorem writeCmd_command {w : Word} {i : Instr} (h : decode w = .command i) (s : State) : writeCmd w s = exec i s := by
  simp [writeCmd, h]
theorem writeCmd_illegal {w : Word} {e : DecodeError} (h : decode w = .illegal e) (s : State) :
    writeCmd w s = offerIllegal w s := by simp [writeCmd, h]

theorem step_no_action {s : State} (h : s.host = []) : step s = s.runFree := by simp [step, h]
theorem step_action {s : State} {a : HostAction} {rest : List HostAction} (h : s.host = a :: rest) :
    step s = hostAct a { s with host := rest } := by simp [step, h]

theorem hostAct_asserted {s : State} (h : s.inReset = true) (a : HostAction) : hostAct a s = actInReset a s.toReset := if_pos h
theorem hostAct_released {s : State} (h : s.inReset = false) (a : HostAction) : hostAct a s = actOutOfReset a s := by simp [hostAct, h]
theorem runFree_asserted {s : State} (h : s.inReset = true) : s.runFree = .next s.toReset := if_pos h
theorem runFree_released {s : State} (h : s.inReset = false) : s.runFree = State.resume { s with pace := none } := by
  simp [State.runFree, h]

theorem tableWord_toNat (w : Word) : tableWord 32 w.toNat = some w := by
  have h := w.isLt
  simp [tableWord, Nat.mod_eq_of_lt h, h]

/-- The host action that `withFetchWord` places is the write of that word to CMD. -/
theorem withFetchWord_host (s : State) (w : Word) :
    s.withFetchWord 32 w.toNat = { s with host := .write 0x0008 w :: s.host, inReset := false } := by
  simp [State.withFetchWord, State.placeWord, tableWord_toNat, cmdWrite]

end Sys2Proof.Machine
end

