-- ==== Sys2Proof/Laws/Heap.lean ====
section
/-! SUPPORT. The heap and the merge (spec/42_heap.md, 43_tree_builder.md): read after write, what every heap procedure leaves unchanged, and
everything a merge can do. -/

namespace Sys2Proof.Machine

open Sys2Proof

/-! ### Reading after writing -/

theorem State.heapAt_setHeap (s : State) (i k : Nat) (n : Idx) :
    (s.setHeap i n).heapAt k = if i = k ∧ k < 256 then n else s.heapAt k := by
  unfold State.setHeap State.heapAt
  by_cases hi : i < 256 <;> by_cases hk : k < 256 <;> simp [hi, hk, Table.get_set]
  rintro rfl
  exact absurd hk hi

theorem State.heapAt_setHeap_self (s : State) {i : Nat} (n : Idx) (h : i < 256) : (s.setHeap i n).heapAt i = n := by
  simp [State.heapAt_setHeap, h]

theorem State.heapAt_setHeap_ne (s : State) {i k : Nat} (n : Idx) (h : i ≠ k) : (s.setHeap i n).heapAt k = s.heapAt k := by
  simp [State.heapAt_setHeap, h]

theorem State.heapAt_beyond (s : State) {k : Nat} (h : 256 ≤ k) : s.heapAt k = Config.nil := by
  simp [State.heapAt, Nat.not_lt.2 h]

theorem State.heapAt_swapHeap (s : State) {i j : Nat} (k : Nat) (hi : i < 256) (hj : j < 256) :
    (s.swapHeap i j).heapAt k = if k = j then s.heapAt i else if k = i then s.heapAt j else s.heapAt k := by
  unfold State.swapHeap
  rw [State.heapAt_setHeap, State.heapAt_setHeap]
  by_cases h1 : k = j
  · subst h1; simp [hj]
  · by_cases h2 : k = i
    · subst h2; simp [hi, h1, Ne.symm h1]
    · simp [h1, h2, Ne.symm h1, Ne.symm h2]

@[simp] theorem State.live_setHeap (s : State) (i : Nat) (n : Idx) : (s.setHeap i n).live = s.live := by simp [State.live]
@[simp] theorem State.live_swapHeap (s : State) (i j : Nat) : (s.swapHeap i j).live = s.live := by simp [State.swapHeap]
@[simp] theorem State.heapAt_setLive (s : State) (n k : Nat) : (s.setLive n).heapAt k = s.heapAt k := rfl
theorem State.live_setLive (s : State) {n : Nat} (h : n < 512) : (s.setLive n).live = n := by
  simp [State.live, State.setLive, Nat.mod_eq_of_lt h]

/-! ### What the heap procedures leave unchanged: everything but H and HEAP_SIZE -/

/-- t differs from s in H and HEAP_SIZE at most. -/
def HeapOnly (s t : State) : Prop := t = { s with heap := t.heap, heapSize := t.heapSize }

theorem HeapOnly.refl (s : State) : HeapOnly s s := rfl

theorem HeapOnly.trans {s t u : State} (h : HeapOnly s t) (k : HeapOnly t u) : HeapOnly s u := by
  unfold HeapOnly at *
  rw [k, h]

/-- The weights, and so the heap order, do not depend on H. -/
theorem HeapOnly.weight {s t : State} (h : HeapOnly s t) (n : Idx) : t.weight n = s.weight n := by rw [h]; rfl
theorem HeapOnly.less {s t : State} (h : HeapOnly s t) (a b : Idx) : t.less a b = s.less a b := by rw [h]; rfl
theorem HeapOnly.node {s t : State} (h : HeapOnly s t) : t.node = s.node := by rw [h]
theorem HeapOnly.nextInt {s t : State} (h : HeapOnly s t) : t.nextInt = s.nextInt := by rw [h]
theorem HeapOnly.draws {s t : State} (h : HeapOnly s t) : t.draws = s.draws := by rw [h]

theorem heapOnly_setHeap (s : State) (i : Nat) (n : Idx) : HeapOnly s (s.setHeap i n) := by
  unfold State.setHeap; split <;> rfl
theorem heapOnly_setLive (s : State) (n : Nat) : HeapOnly s (s.setLive n) := rfl
theorem heapOnly_swapHeap (s : State) (i j : Nat) : HeapOnly s (s.swapHeap i j) :=
  (heapOnly_setHeap _ _ _).trans (heapOnly_setHeap _ _ _)

theorem heapOnly_siftDownLoop (turns i : Nat) (s : State) : HeapOnly s (siftDownLoop turns i s) ∧ (siftDownLoop turns i s).live = s.live := by
  induction turns generalizing i s with
  | zero => exact ⟨.refl s, rfl⟩
  | succ k ih =>
    simp only [siftDownLoop]
    split
    · exact ⟨.refl s, rfl⟩
    · exact ⟨(heapOnly_swapHeap _ _ _).trans (ih _ _).1, (ih _ _).2.trans (by simp)⟩

theorem heapOnly_siftUpLoop (turns i : Nat) (s : State) : HeapOnly s (siftUpLoop turns i s) ∧ (siftUpLoop turns i s).live = s.live := by
  induction turns generalizing i s with
  | zero => exact ⟨.refl s, rfl⟩
  | succ k ih =>
    simp only [siftUpLoop]
    split
    · exact ⟨.refl s, rfl⟩
    · split
      · exact ⟨(heapOnly_swapHeap _ _ _).trans (ih _ _).1, (ih _ _).2.trans (by simp)⟩
      · exact ⟨.refl s, rfl⟩

theorem heapOnly_siftDown (s : State) (i : Nat) : HeapOnly s (s.siftDown i) := (heapOnly_siftDownLoop _ _ _).1
@[simp] theorem State.live_siftDown (s : State) (i : Nat) : (s.siftDown i).live = s.live := (heapOnly_siftDownLoop _ _ _).2
theorem heapOnly_siftUp (s : State) (i : Nat) : HeapOnly s (s.siftUp i) := (heapOnly_siftUpLoop _ _ _).1
@[simp] theorem State.live_siftUp (s : State) (i : Nat) : (s.siftUp i).live = s.live := (heapOnly_siftUpLoop _ _ _).2

theorem heapOnly_heapify (n : Nat) (s : State) : HeapOnly s (heapify n s) ∧ (heapify n s).live = s.live := by
  induction n generalizing s with
  | zero => exact ⟨.refl s, rfl⟩
  | succ k ih => exact ⟨(heapOnly_siftDown _ _).trans (ih _).1, (ih _).2.trans (by simp)⟩

theorem heapOnly_extractMin (s : State) : HeapOnly s s.extractMin.2 := by
  simp only [State.extractMin]
  have h1 := heapOnly_setLive s (s.live - 1)
  split
  · exact ((h1.trans (heapOnly_setHeap _ _ _)).trans (heapOnly_setHeap _ _ _)).trans (heapOnly_siftDown _ _)
  · exact h1.trans (heapOnly_setHeap _ _ _)

/-- ExtractMin answers H[0] and lowers HEAP_SIZE by 1 (R109). -/
theorem State.extractMin_fst (s : State) : s.extractMin.1 = s.heapAt 0 := rfl
theorem State.live_extractMin (s : State) : s.extractMin.2.live = s.live - 1 := by
  have h : s.live - 1 < 512 := Nat.lt_of_le_of_lt (Nat.sub_le _ _) s.heapSize.isLt
  simp only [State.extractMin]
  split <;> simp [State.live_setLive _ h]

theorem heapOnly_insert (s : State) (n : Idx) : HeapOnly s (s.insert n) :=
  ((heapOnly_setHeap _ _ _).trans (heapOnly_setLive _ _)).trans (heapOnly_siftUp _ _)

/-- Insert raises HEAP_SIZE by 1 (R110). -/
theorem State.live_insert (s : State) (n : Idx) (h : s.live < 511) : (s.insert n).live = s.live + 1 := by
  simp only [State.insert, State.live_siftUp]
  exact State.live_setLive _ (by omega)

/-! ### The merge (R113) -/

/-- The weight of a merged node: the sum where it fits, a free word where it does not (log 7). -/
theorem State.mergedWeight_fits {s : State} {a b : Idx} (h : (s.weight a).toNat + (s.weight b).toNat < 2 ^ 32) :
    s.mergedWeight a b = (s.weight a + s.weight b, s) := if_pos h
theorem State.mergedWeight_free {s : State} {a b : Idx} (h : ¬ (s.weight a).toNat + (s.weight b).toNat < 2 ^ 32) :
    s.mergedWeight a b = (Config.freeWord s.draws, { s with draws := s.draws + 1 }) := if_neg h

/-- Everything a merge can do: the two extracted entries become the children of slot NEXT_INT, which is inserted. -/
theorem State.merge_ok {s t : State} (h : s.merge = .ok t) : ∃ j a b w d,
    a = s.extractMin.1 ∧ b = s.extractMin.2.extractMin.1 ∧ slot? s.nextInt = some j ∧
      ((s.weight a).toNat + (s.weight b).toNat < 2 ^ 32 → w = s.weight a + s.weight b ∧ d = s.draws) ∧
      t = State.insert { s.extractMin.2.extractMin.2 with node := s.node.set j ⟨true, a, b, w⟩, nextInt := s.nextInt + 1, draws := d } s.nextInt ∧
      t = { s with node := s.node.set j ⟨true, a, b, w⟩, nextInt := s.nextInt + 1, heap := t.heap, heapSize := t.heapSize, draws := d } := by
  have h12 : HeapOnly s s.extractMin.2.extractMin.2 := (heapOnly_extractMin _).trans (heapOnly_extractMin _)
  have finish : ∀ (w : Word) (d : Nat) (u : State) (j : Fin 255),
      u = { s.extractMin.2.extractMin.2 with node := s.node.set j ⟨true, s.extractMin.1, s.extractMin.2.extractMin.1, w⟩, nextInt := s.nextInt + 1, draws := d } →
      t = u.insert s.nextInt →
      t = { s with node := s.node.set j ⟨true, s.extractMin.1, s.extractMin.2.extractMin.1, w⟩, nextInt := s.nextInt + 1, heap := t.heap
                   heapSize := t.heapSize, draws := d } := by
    rintro w d u j hu rfl
    have hi := heapOnly_insert u s.nextInt
    have h12' := h12
    unfold HeapOnly at hi h12'
    refine hi.trans ?_
    generalize (u.insert s.nextInt).heap = H
    generalize (u.insert s.nextInt).heapSize = Z
    subst hu
    rw [h12']
  by_cases hf : (s.weight s.extractMin.1).toNat + (s.weight s.extractMin.2.extractMin.1).toNat < 2 ^ 32
  · have hf' := hf
    rw [← h12.weight, ← h12.weight s.extractMin.2.extractMin.1] at hf'
    simp only [State.merge, State.mergedWeight_fits hf'] at h
    split at h
    · next s4 ha =>
      obtain ⟨j, hj, rfl⟩ := State.alloc_ok.1 ha
      rw [h12.nextInt] at hj
      have ht := (Except.ok.inj h).symm
      refine ⟨j, _, _, s.weight s.extractMin.1 + s.weight s.extractMin.2.extractMin.1, s.draws, rfl, rfl, hj, fun _ => ⟨rfl, rfl⟩, ?_, ?_⟩
      · rw [ht, h12.node, h12.nextInt, h12.weight, h12.weight, ← h12.draws]
      · refine finish _ _ _ j rfl ?_
        rw [ht, h12.node, h12.nextInt, h12.weight, h12.weight, ← h12.draws]
    · cases h
  · have hf' := hf
    rw [← h12.weight, ← h12.weight s.extractMin.2.extractMin.1] at hf'
    simp only [State.merge, State.mergedWeight_free hf'] at h
    split at h
    · next s4 ha =>
      obtain ⟨j, hj, rfl⟩ := State.alloc_ok.1 ha
      rw [h12.nextInt] at hj
      have ht := (Except.ok.inj h).symm
      refine ⟨j, _, _, Config.freeWord s.draws, s.draws + 1, rfl, rfl, hj, fun hc => absurd hc hf, ?_, ?_⟩
      · rw [ht, h12.node, h12.nextInt, h12.draws]
      · refine finish _ _ _ j rfl ?_
        rw [ht, h12.node, h12.nextInt, h12.draws]
    · cases h

/-- A merge never fails when NEXT_INT names a slot. -/
theorem State.merge_of_slot {s : State} {j : Fin 255} (h : slot? s.nextInt = some j) : ∃ t, s.merge = .ok t := by
  have h12 : HeapOnly s s.extractMin.2.extractMin.2 := (heapOnly_extractMin _).trans (heapOnly_extractMin _)
  have key : ∀ (u : State) (nd : Node), u.nextInt = s.nextInt → ∃ v, u.alloc nd = .ok v := fun u nd hu =>
    ⟨_, State.alloc_ok.2 ⟨j, hu ▸ h, rfl⟩⟩
  by_cases hf : (s.extractMin.2.extractMin.2.weight s.extractMin.1).toNat +
      (s.extractMin.2.extractMin.2.weight s.extractMin.2.extractMin.1).toNat < 2 ^ 32
  · obtain ⟨v, hv⟩ := key s.extractMin.2.extractMin.2 ⟨true, s.extractMin.1, s.extractMin.2.extractMin.1, s.extractMin.2.extractMin.2.weight s.extractMin.1 + s.extractMin.2.extractMin.2.weight s.extractMin.2.extractMin.1⟩ h12.nextInt
    exact ⟨v.insert s.extractMin.2.extractMin.2.nextInt, by simp only [State.merge, State.mergedWeight_fits hf, hv]⟩
  · obtain ⟨v, hv⟩ := key { s.extractMin.2.extractMin.2 with draws := s.extractMin.2.extractMin.2.draws + 1 }
      ⟨true, s.extractMin.1, s.extractMin.2.extractMin.1, Config.freeWord s.extractMin.2.extractMin.2.draws⟩ h12.nextInt
    exact ⟨v.insert s.extractMin.2.extractMin.2.nextInt, by simp only [State.merge, State.mergedWeight_free hf, hv]⟩

end Sys2Proof.Machine
end

