-- ==== Sys2Proof/Laws/HostProgram.lean ====
section
/-! SUPPORT. Running a host program: one law for each way a turn can end (spec/30_encoding.md R88). -/

namespace Sys2Proof.Machine

open Sys2Proof

@[simp] theorem performAll_nil (s : State) : performAll [] s = .next s := rfl

theorem performAll_next {a : HostAction} {later : List HostAction} {s t : State} (h : step { s with host := [a] } = .next t) :
    performAll (a :: later) s = performAll later t := by simp [performAll, h]

theorem ProgramRun.step_done {r : ProgramRun} (h : r.todo = []) : r.step = .next r := by simp [ProgramRun.step, h]

theorem ProgramRun.step_turn {r : ProgramRun} {st : Stmt} {later : List Stmt} {s : State} (h : r.todo = st :: later)
    (ht : performAll st.turn r.machine = .next s) : r.step = .next (r.afterTurn st later s) := by
  simp [ProgramRun.step, h, ht]

/-- A WAIT that read BUSY = 1 reads again. -/
theorem ProgramRun.wait_again {r : ProgramRun} {later : List Stmt} {s : State} (h : s.busData.getLsbD 0 = true) :
    (r.afterTurn .wait later s).todo = .wait :: later := by simp [ProgramRun.afterTurn, Stmt.finished, h]

/-- A WAIT that read BUSY = 0 is over. -/
theorem ProgramRun.wait_over {r : ProgramRun} {later : List Stmt} {s : State} (h : s.busData.getLsbD 0 = false) :
    (r.afterTurn .wait later s).todo = later := by simp only [ProgramRun.afterTurn, Stmt.finished, h]; rfl

/-- SINK FAIL k with k >= 1: the k-th answer fails, those before it are OK. -/
theorem failAt_answers {k : Nat} (h : 1 ≤ k) :
    (failAt k).map SinkAnswer.ofPort = List.replicate (k - 1) .ok ++ [.fail] ∧ (failAt k).length = k := by
  refine ⟨by simp [failAt, SinkAnswer.ofPort], ?_⟩
  simp [failAt]
  omega

end Sys2Proof.Machine
end

