-- ==== Sys2Proof/Laws/PerInstr.lean ====
section
/-! SUPPORT. The per-instruction family Encoding (spec/30_encoding.md R73, R74): what each command's word is. -/

namespace Sys2Proof.Laws

open Sys2Proof

/-- The map has one row for each command (R74). -/
theorem mem_opcodeMap (op : Byte) (j : Instr) : (op, j) ∈ opcodeMap ↔ op = opcodeOf j := by
  cases j <;> simp [opcodeMap, opcodeOf]

/-- No two commands share an opcode (R74). -/
theorem opcodeOf_inj {i j : Instr} (h : opcodeOf i = opcodeOf j) : i = j := by
  cases i <;> cases j <;> first | rfl | exact absurd h (by decide)

namespace Encoding

/-- The word of a command has RSVD = 0, the OPCODE of the command's row, and that row is the only one of the command and of the opcode. -/
def Statement (i : Instr) : Prop :=
  i.wellFormed = true ∧ rsvdField (encode i) = 0 ∧ opcodeField (encode i) = opcodeOf i ∧
    (∀ j, (opcodeOf i, j) ∈ opcodeMap ↔ j = i) ∧ (∀ op, (op, i) ∈ opcodeMap ↔ op = opcodeOf i) ∧
    CommandWord.wellFormed (encode i) = true ∧ decodeTableWord 32 (encode i).toNat = some i

/-- The shared part of every lemma below. -/
theorem statement_of {i : Instr} (hr : rsvdField (encode i) = 0) (ho : opcodeField (encode i) = opcodeOf i)
    (hw : CommandWord.wellFormed (encode i) = true) (hd : decodeTableWord 32 (encode i).toNat = some i)
    (hf : i.wellFormed = true) : Statement i :=
  ⟨hf, hr, ho, fun j => by rw [mem_opcodeMap]; exact ⟨fun h => (opcodeOf_inj h).symm, fun h => h ▸ rfl⟩,
    fun op => mem_opcodeMap op i, hw, hd⟩

theorem nop : Statement .nop := statement_of (by decide) (by decide) (by decide) (by decide) rfl
theorem softReset : Statement .softReset := statement_of (by decide) (by decide) (by decide) (by decide) rfl
theorem clearErr : Statement .clearErr := statement_of (by decide) (by decide) (by decide) (by decide) rfl
theorem freqClear : Statement .freqClear := statement_of (by decide) (by decide) (by decide) (by decide) rfl
theorem freqCount : Statement .freqCount := statement_of (by decide) (by decide) (by decide) (by decide) rfl
theorem heapBuild : Statement .heapBuild := statement_of (by decide) (by decide) (by decide) (by decide) rfl
theorem treeStep : Statement .treeStep := statement_of (by decide) (by decide) (by decide) (by decide) rfl
theorem treeBuild : Statement .treeBuild := statement_of (by decide) (by decide) (by decide) (by decide) rfl
theorem codesDerive : Statement .codesDerive := statement_of (by decide) (by decide) (by decide) (by decide) rfl
theorem treeSerialize : Statement .treeSerialize := statement_of (by decide) (by decide) (by decide) (by decide) rfl
theorem treeDeserialize : Statement .treeDeserialize := statement_of (by decide) (by decide) (by decide) (by decide) rfl
theorem pack : Statement .pack := statement_of (by decide) (by decide) (by decide) (by decide) rfl
theorem unpack : Statement .unpack := statement_of (by decide) (by decide) (by decide) (by decide) rfl
theorem compress : Statement .compress := statement_of (by decide) (by decide) (by decide) (by decide) rfl
theorem decompress : Statement .decompress := statement_of (by decide) (by decide) (by decide) (by decide) rfl

end Encoding

end Sys2Proof.Laws
end

