-- ==== Sys2Proof/Tests/Slice0.lean ====
section
/-! SUPPORT. The model's own tests. Expected values come from spec/95_test_vectors.md (the vector is named in each comment) and from the
encodings of spec/30_encoding.md. After them, a witness for the hypotheses of every statement. -/

namespace Sys2Proof.Tests

set_option Elab.async false

open Sys2Proof Sys2Proof.Machine

/-! ### Helpers -/

/-- The state a command leaves (the state itself when exec answers no next state). -/
def after (i : Instr) (s : State) : State :=
  match exec i s with
  | .next t => t
  | .fault _ | .refused _ => s

/-- exec answers a next state. -/
def runs (i : Instr) (s : State) : Bool :=
  match exec i s with
  | .next _ => true
  | .fault _ | .refused _ => false

theorem exec_after {i : Instr} {s : State} (h : runs i s = true) : exec i s = .next (after i s) := by
  unfold runs at h
  unfold after
  cases he : exec i s <;> simp_all

/-- The state a step leaves. -/
def stepped (s : State) : State :=
  match step s with
  | .next t => t
  | .fault _ | .refused _ => s

def steps (s : State) : Bool :=
  match step s with
  | .next _ => true
  | .fault _ | .refused _ => false

theorem step_stepped {s : State} (h : steps s = true) : step s = .next (stepped s) := by
  unfold steps at h
  unfold stepped
  cases he : step s <;> simp_all

/-- `n` steps. -/
def stepsFrom : Nat → State → State
  | 0, s => s
  | n + 1, s => stepsFrom n (stepped s)

/-- Bytes of IN. -/
def bytesIn (bs : List Byte) : List Token := bs.map .byte

/-- Reset, with tokens in IN and a sink that accepts 16 bytes. -/
def fed (ts : List Token) : State := { State.reset with inq := ts, sink := List.replicate 16 .ok }

def aaab : List Byte := [0x61, 0x61, 0x61, 0x62]

/-- FREQ of "aaab" (V-FQ-1). -/
def countedAB : State :=
  { ((fed []).setFreq 0x61 3).setFreq 0x62 1 with total := 4, nsym := 2 }

/-- Its heap (V-HP-1). -/
def heapAB : State := { (countedAB.setHeap 0 0x62).setHeap 1 0x61 with heapSize := 2 }

/-- Its tree (V-TB-1). -/
def treeAB : State :=
  { countedAB.setHeap 0 256 with heapSize := 1, node := countedAB.node.set 0 ⟨true, 0x62, 0x61, 4⟩, nextInt := 257, root := 256 }

/-- Its codes (V-CT-1). -/
def codesAB : State := (treeAB.setCode 0x61 1 1).setCode 0x62 1 0

/-- The weights 5, 1, 4, 2, 3 on 0x61..0x65 and their heap (V-HP-3). -/
def heapE : State :=
  { ((((((fed []).setFreq 0x61 5).setFreq 0x62 1).setFreq 0x63 4).setFreq 0x64 2).setFreq 0x65 3) with
    total := 15, nsym := 5, heapSize := 5
    heap := ⟨[0x62, 0x64, 0x63, 0x61, 0x65] ++ List.replicate 251 511, by decide +kernel⟩ }

/-- A recorded E_CODE_MISS(0x63) of PACK (V-CTL-2). -/
def failed : State := { State.reset with err := ⟨0x20, 0x60, 0x63, 3⟩ }

/-- A FREQ_COUNT that waits for tokens (P4). -/
def waiting : State := { State.reset with seq := .running 0x11 .count [] }

/-- FREQ at the edge: symbol 0 counted 2^32 - 2 times. -/
def nearlyFull : State := { (fed []).setFreq 0 0xFFFFFFFE with total := 0xFFFFFFFE, nsym := 1 }

/-- The 256 symbols, each once, with their heap (V-HP-4). -/
def heapAll : State :=
  { State.reset with freq := .fill 256 1, total := 256, nsym := 256, heapSize := 256, heap := ⟨symbols.map leafSlot, by decide +kernel⟩ }

/-! ### Well-formedness and decoding (R73 to R78): the words are written out from the table of R74 -/

theorem test_wf_rejects_rsvd : CommandWord.rsvdZero 0x00000100 = false ∧ CommandWord.wellFormed 0x00000111 = false := by decide
theorem test_wf_rejects_rsvd_top : CommandWord.wellFormed 0x80000000 = false := by decide
theorem test_wf_rejects_opcode : CommandWord.opcodeListed 0x00000003 = false ∧ CommandWord.wellFormed 0x000000FF = false := by decide
theorem test_wf_rejects_sink_fail_zero : (Stmt.sinkFail 0).wellFormed = false := by decide
theorem test_wf_accepts : CommandWord.wellFormed 0x00000081 = true ∧ (Stmt.sinkFail 1).wellFormed = true := by decide

theorem test_decode_control : decode 0b00000000000000000000000000000000#32 = .command .nop ∧
    decode 0b00000000000000000000000000000001#32 = .command .softReset ∧
    decode 0b00000000000000000000000000000010#32 = .command .clearErr := by decide
theorem test_decode_frequency : decode 0b00000000000000000000000000010000#32 = .command .freqClear ∧
    decode 0b00000000000000000000000000010001#32 = .command .freqCount := by decide
theorem test_decode_heap : decode 0b00000000000000000000000000100000#32 = .command .heapBuild := by decide
theorem test_decode_tree : decode 0b00000000000000000000000000110000#32 = .command .treeStep ∧
    decode 0b00000000000000000000000000110001#32 = .command .treeBuild := by decide
theorem test_decode_codes : decode 0b00000000000000000000000001000000#32 = .command .codesDerive := by decide
theorem test_decode_codec : decode 0b00000000000000000000000001010000#32 = .command .treeSerialize ∧
    decode 0b00000000000000000000000001010001#32 = .command .treeDeserialize := by decide
theorem test_decode_packer : decode 0b00000000000000000000000001100000#32 = .command .pack := by decide
theorem test_decode_unpacker : decode 0b00000000000000000000000001110000#32 = .command .unpack := by decide
theorem test_decode_composite : decode 0b00000000000000000000000010000000#32 = .command .compress ∧
    decode 0b00000000000000000000000010000001#32 = .command .decompress := by decide
/-- R78, R59: lane 0 is the low byte; three bytes are no word. -/
theorem test_decode_lanes : decodeBytes [0x11, 0x00, 0x00, 0x00] = .command .freqCount ∧
    decodeBytes [0x00, 0x00, 0x00, 0x11] = .illegal .reservedBits ∧ decodeBytes [0x11, 0x00, 0x00] = .illegal .notOneWord := by decide
theorem test_table_word : decodeTableWord 32 0x81 = some .decompress ∧ decodeTableWord 32 0x111 = none := by decide
/-- R79, R80. -/
theorem test_port_words : [⟨0, 0x61⟩, ⟨1, 0x61⟩, ⟨2, 0⟩, ⟨3, 0⟩].map Token.ofPort = [.byte 0x61, .endOfPass, .fail, .fail] ∧
    [0, 1].map SinkAnswer.ofPort = [.ok, .fail] := by decide

/-! ### Control -/

/-- V-CTL-1. -/
theorem test_nop : (after .nop State.reset).statusWord = 0x00000002 ∧ after .nop State.reset = { State.reset with done := true } := by
  decide +kernel
/-- V-CTL-2. -/
theorem test_nop_rejected : (after .nop failed).statusWord = 0x0000000C ∧ (after .nop failed).err.word = 0x03636020 := by decide +kernel
/-- V-CTL-3, V-BUS-4. -/
theorem test_clearErr : (after .clearErr { failed with rej := true }).statusWord = 0x0000000A ∧
    ((after .clearErr { failed with rej := true }).writeStatus 0x2).statusWord = 0x00000008 := by decide +kernel
/-- V-CTL-4, V-CTL-5. -/
theorem test_illegal_words : [(0x00000111 : Word), 0x000000FF].map (fun w => (stepped { State.reset with host := [cmdWrite w] }).err.word) =
    [0x04111130, 0x04FFFF30] := by decide +kernel
/-- R99: idle, SOFT_RESET is one event; held before it, a CMD write sets REJ, which the reset clears. -/
theorem test_softReset_one_event : (after .softReset { failed with pace := some 1 }).statusWord = 0x00000002 ∧
    (stepsFrom 3 { failed with pace := some 0, host := [cmdWrite 0x01, cmdWrite 0x00, .letRun (some 1)] }).statusWord = 0x00000002 := by
  decide +kernel
/-- R166: a command written while the reset input is asserted is void; afterwards STATUS reads 0 and not 2. -/
theorem test_hardReset_level : (stepsFrom 3 { waiting with host := [.assertReset, cmdWrite 0x00, .releaseReset] }) = State.reset := by
  decide +kernel
/-- V-CTL-6, R94: SOFT_RESET aborts a running command. -/
theorem test_softReset : after .softReset { waiting with inq := [.endOfPass], total := 3 } =
    { State.reset with done := true, inq := [.endOfPass] } := by decide +kernel
theorem test_softReset_after_error : (after .softReset failed).statusWord = 0x00000002 := by decide +kernel

/-! ### Frequency counter -/

/-- V-FQ-1. -/
theorem test_freqCount : after .freqCount (fed (passOf aaab [])) = { countedAB with done := true, inCount := 4 } := by decide +kernel
/-- V-FQ-6. -/
theorem test_freqCount_overflow :
    let t := after .freqCount { (fed (passOf [0x62] [])).setFreq 0x61 0xFFFFFFFF with total := 0xFFFFFFFF, nsym := 1 }
    t.err.word = 0x04621132 ∧ t.inCount = 1 ∧ t.freqOf 0x62 = 0 ∧ t.inq = [.endOfPass] := by decide +kernel
/-- V-FQ-3. -/
theorem test_freqClear : after .freqClear codesAB =
    { codesAB with freq := .fill 256 0, total := 0, nsym := 0, done := true } := by decide +kernel

/-! ### Priority queue and tree builder -/

/-- V-HP-3. -/
theorem test_heapBuild : (after .heapBuild { heapE with heap := .fill 256 511, heapSize := 0 }).liveHeap = [0x62, 0x64, 0x63, 0x61, 0x65] := by
  decide +kernel
/-- V-HP-1: the tree is discarded. -/
theorem test_heapBuild_discards : after .heapBuild codesAB = { codesAB with
    node := .fill 255 .clear, nextInt := 256, root := 511, heap := heapAB.heap, heapSize := 2, done := true } := by decide +kernel
/-- V-TB-3, steps 1 and 2: the tie at weight 3 goes to the lower index. -/
theorem test_treeStep : (after .treeStep heapE).liveHeap = [0x65, 256, 0x63, 0x61] ∧
    (after .treeStep (after .treeStep heapE)).readReg (.nodeLink 1) = 0x81000065 ∧
    (after .treeStep (after .treeStep heapE)).readReg (.nodeFreq 1) = 6 := by decide +kernel
/-- V-TB-7. -/
theorem test_treeStep_all : (after .treeStep heapAll).liveHeap.take 8 = [0x02, 0x03, 0x05, 0x07, 0x04, 0x0B, 0x06, 0x0F] := by decide +kernel
/-- V-TB-1. -/
theorem test_treeBuild : after .treeBuild heapAB = { treeAB with done := true } ∧ treeAB.readReg (.nodeLink 0) = 0x80610062 := by decide +kernel
/-- V-TB-4. -/
theorem test_treeBuild_single :
    let t := after .treeBuild { ((fed []).setFreq 0x7A 3).setHeap 0 0x7A with heapSize := 1 }
    t.readReg (.nodeLink 0) = 0x807A007A ∧ t.readReg (.nodeFreq 0) = 3 ∧ t.liveHeap = [256] ∧ t.root = 256 ∧ t.nextInt = 257 := by
  decide +kernel

/-! ### Codes, codec -/

/-- V-CT-1. -/
theorem test_codesDerive : after .codesDerive treeAB = { codesAB with done := true } := by decide +kernel
/-- V-CT-6: the first position in pre-order wins. -/
theorem test_codesDerive_repeated :
    let t := after .codesDerive (after .treeDeserialize (fed (bytesIn [0x00, 0x00, 0x01, 0x41, 0x01, 0x42, 0x01, 0x41])))
    [t.codeLenOf 0x41, t.codeLenOf 0x42] = [2, 2] ∧ [t.codeBitsOf 0x41, t.codeBitsOf 0x42] = [0, 1] := by decide +kernel
/-- V-SER-1. -/
theorem test_treeSerialize : (after .treeSerialize treeAB).out = [0x00, 0x01, 0x62, 0x01, 0x61] ∧ (after .treeSerialize treeAB).outCount = 5 := by
  decide +kernel
/-- V-SER-5. -/
theorem test_treeSerialize_fail : let t := after .treeSerialize { treeAB with sink := [.ok, .ok, .fail] }
    t.out = [0x00, 0x01] ∧ t.outCount = 2 ∧ t.err.word = 0x01005002 := by decide +kernel
/-- V-DES-2. -/
theorem test_treeDeserialize :
    let t := after .treeDeserialize (fed (bytesIn [0x00, 0x01, 0x61, 0x00, 0x00, 0x01, 0x63, 0x01, 0x64, 0x00, 0x01, 0x62, 0x01, 0x72]))
    t.node.cells.take 4 = [⟨true, 0x61, 257, 0⟩, ⟨true, 258, 259, 0⟩, ⟨true, 0x63, 0x64, 0⟩, ⟨true, 0x62, 0x72, 0⟩] ∧ t.root = 256 ∧
      t.nextInt = 260 ∧ t.statusWord = 0x00000012 := by decide +kernel
/-- V-DES-4: the four format errors. -/
theorem test_treeDeserialize_errors :
    [([0x01, 0x41], []), ([0x00, 0x01, 0x41], []), ([0x00, 0x02], []), (List.replicate 256 0x00, [])].map
      (fun (p : List Byte × List Token) =>
        let t := after .treeDeserialize (fed (passOf p.1 p.2))
        (t.err.word, t.inCount, t.inq.length)) =
      [(0x02005111, 1, 2), (0x02005110, 3, 0), (0x02025112, 2, 1), (0x02005113, 256, 1)] := by decide +kernel

/-! ### Packer, unpacker, composites -/

/-- V-PK-1. -/
theorem test_pack : after .pack { codesAB with inq := passOf aaab [] } =
    { codesAB with out := [0xE0], done := true, inCount := 4, outCount := 1, sink := List.replicate 15 .ok } := by decide +kernel
/-- V-PK-5. -/
theorem test_pack_codeMiss : let t := after .pack { codesAB with inq := passOf [0x61, 0x61, 0x61, 0x63] [] }
    t.err.word = 0x03636020 ∧ t.readReg .packState = 0x00000307 ∧ t.inq = [.endOfPass] ∧ t.out = [] := by decide +kernel
/-- V-UP-1. -/
theorem test_unpack : (after .unpack { treeAB with inq := passOf [0xE0] [] }).out = [0x61, 0x61, 0x61, 0x62, 0x62, 0x62, 0x62, 0x62] := by
  decide +kernel
/-- V-UP-3. -/
theorem test_unpack_midwalk :
    let t := after .unpack (after .treeDeserialize (fed (passOf [0x00, 0x01, 0x63, 0x00, 0x01, 0x61, 0x01, 0x62, 0x01] [])))
    t.out = List.replicate 7 0x63 ∧ t.cur = 0x101 ∧ t.statusWord = 0x00000052 := by decide +kernel
/-- The row "aaabc" of the composites. -/
theorem test_compress :
    let t := after .compress (fed (passOf [0x61, 0x61, 0x61, 0x62, 0x63] (passOf [0x61, 0x61, 0x61, 0x62, 0x63] [])))
    t.out = [0x00, 0x00, 0x01, 0x62, 0x01, 0x63, 0x01, 0x61, 0xE2] ∧ t.inCount = 10 ∧ t.outCount = 9 ∧ t.statusWord = 0x00000012 := by
  decide +kernel
/-- V-CMP-2. -/
theorem test_compress_codeMiss : let t := after .compress (fed (passOf aaab (passOf [0x61, 0x61, 0x61, 0x63] [])))
    t.err.word = 0x03638020 ∧ t.out = [0x00, 0x01, 0x62, 0x01, 0x61] := by decide +kernel
/-- P3's good artifact. -/
theorem test_decompress : let t := after .decompress (fed (passOf [0x00, 0x00, 0x01, 0x62, 0x01, 0x63, 0x01, 0x61, 0xE2] []))
    t.out = [0x61, 0x61, 0x61, 0x62, 0x63] ∧ t.statusWord = 0x00000052 ∧ t.cur = 0x101 ∧ t.inCount = 9 ∧ t.outCount = 5 := by decide +kernel
/-- V-CMP-3. -/
theorem test_decompress_badTag : let t := after .decompress (fed (passOf [0x00, 0x02, 0x01, 0x41] []))
    t.err.word = 0x02028112 ∧ t.inCount = 2 ∧ t.out = [] ∧ t.inq.length = 3 := by decide +kernel

/-! ### The bus, the host and the step -/

/-- V-BUS-1, V-BUS-2. -/
theorem test_reset_reads :
    [(0x0000 : Offset), 0x0004, 0x000C, 0x0010, 0x001C, 0x0024, 0x0800, 0x0034, 0x0001, 0x0038, 0x0008, 0x0FFC].map
      (fun a => (State.reset.memRead a).busData) =
      [0x48554646, 0x00010100, 0, 0, 0x1FF, 0x100, 0x1FF, 0x1FF, 0, 0, 0, 0] := by decide +kernel
/-- V-CT-2: the offsets of CODE_BITS[0x63].w0 and CODE_LEN[0x61]. -/
theorem test_window_offsets : regAt 0x2C60 = some (.codeBits 0x63 0) ∧ regAt 0x1584 = some (.codeLen 0x61) := by decide +kernel
/-- V-BUS-3: FREQ is read only. -/
theorem test_freq_readOnly : stepped { countedAB with host := [.write 0x0584 0x5] } = countedAB := by decide +kernel
/-- P4's opening: a stalled FREQ_COUNT, a rejected NOP, two bytes consumed at once, IN_COUNT exact while BUSY. -/
theorem test_stall_and_reject :
    let t := stepsFrom 5 { State.reset with
      host := [cmdWrite 0x11, cmdWrite 0x00, .feed [⟨0, 0x61⟩, ⟨0, 0x62⟩], .letRun none, .read 0x0028] }
    t.statusWord = 0x00000009 ∧ t.busData = 2 ∧ t.inq = [] := by decide +kernel
/-- Turns of a host program. -/
def turns : Nat → ProgramRun → ProgramRun
  | 0, r => r
  | n + 1, r =>
    match r.step with
    | .next t => turns n t
    | .fault _ | .refused _ => r
/-- R88: a WAIT on a command that waits for tokens reads STATUS again and again. -/
theorem test_program_wait : (turns 5 (.start [.run .freqCount] State.reset)).todo = [.wait] := by decide +kernel
/-- P3's malformed artifact, with a READ that gives a wrong value at the end. -/
theorem test_program_checks :
    (turns 7 (.start [.stmt (.feed [.byte 0x00, .byte 0x02, .endMark]), .run .decompress, .stmt (.read .err (some 0x02028112)),
      .stmt (.expectOut []), .stmt .drain, .stmt (.read .inCount (some 3))] State.reset)).mismatches = [.read .inCount (some 3)] := by
  decide +kernel
/-- R88: SINK FAIL 3 fails the third byte offered, and OUT keeps two. -/
theorem test_program_sinkFail :
    (turns 6 (.start [.stmt (.sinkFail 3), .run .treeSerialize, .stmt (.expectOut [0x00, 0x01]), .stmt (.read .err (some 0x01005002))]
      treeAB)).passed = true := by decide +kernel
/-- A word placed for the next step runs as that command, from reset. -/
theorem test_fetch : (stepped (State.reset.withFetchWord 32 0x70)).err.word = 0x04007031 ∧
    stepped (State.reset.withFetchWord 32 0x00) = { State.reset with done := true } := by decide +kernel
/-- Held engine: before its first step, before a raise and before its completion (R22; log 2). -/
theorem test_held :
    (after .unpack { State.reset with pace := some 0 }).seq = .running 0x70 (.enter .unpack) [] ∧
    (after .unpack { State.reset with pace := some 1 }).seq = .running 0x70 (.fail .noTree 0) [] ∧
    (after .nop { State.reset with pace := some 1 }).seq = .running 0x00 .leave [] ∧
    (after .compress { State.reset with pace := some 1 }).seq = .running 0x80 (.enter .freqCount) (compressRest.drop 1) := by decide +kernel

/-- Held at ROOT <- r: the whole header is counted, BUSY = 1 and TREE_VALID = 0; the next transfer sets ROOT (R125; log 2). -/
theorem test_held_setRoot :
    let t := after .treeDeserialize { fed (bytesIn [0x00, 0x01, 0x62, 0x01, 0x61]) with pace := some 6 }
    t.seq = .running 0x51 (.setRoot 256) [] ∧ t.statusWord = 0x00000001 ∧ t.inCount = 5 ∧
      (stepped { t with host := [.letRun (some 1)] }).statusWord = 0x00000011 := by decide +kernel

/-! ### Witnesses: for each statement with hypotheses, states and operands that meet them, clause by clause -/

/-- The answers of a queue, counted by evaluation. -/
theorem accepts_of {s : State} {n : Nat} (h : (List.range n).all (fun k => s.answerAt k == some .ok) = true) : s.Accepts n := fun k hk => by
  simpa using List.all_eq_true.1 h k (List.mem_range.2 hk)

theorem ready_reset : State.reset.Ready := ⟨rfl, rfl, rfl⟩
theorem ready_fed (ts : List Token) : (fed ts).Ready := ⟨rfl, rfl, rfl⟩
theorem ready_countedAB : countedAB.Ready := ⟨rfl, rfl, rfl⟩
theorem ready_heapAB : heapAB.Ready := ⟨rfl, rfl, rfl⟩
theorem ready_treeAB : treeAB.Ready := ⟨rfl, rfl, rfl⟩
theorem ready_codesAB : codesAB.Ready := ⟨rfl, rfl, rfl⟩

/-- The tree of "aaab". -/
def shapeAB : CodeTree := .node (.leaf 0x62) (.leaf 0x61)

theorem hasTree_treeAB : treeAB.HasTree shapeAB := by
  refine ⟨rfl, by decide, 0, by decide +kernel, by decide +kernel, ?_, ?_⟩
  · show (treeAB.node.get 0).left = leafSlot 0x62; decide +kernel
  · show (treeAB.node.get 0).right = leafSlot 0x61; decide +kernel
theorem hasTree_codesAB : codesAB.HasTree shapeAB := by
  refine ⟨rfl, by decide, 0, by decide +kernel, by decide +kernel, ?_, ?_⟩
  · show (codesAB.node.get 0).left = leafSlot 0x62; decide +kernel
  · show (codesAB.node.get 0).right = leafSlot 0x61; decide +kernel

theorem witness_HardResetFromAnyState_assert : ∃ (s : State) (rest : List HostAction), s.host = .assertReset :: rest ∧ s.busy = true :=
  ⟨{ waiting with host := [.assertReset] }, [], rfl, rfl⟩
/-- While asserted: a command that is written, a read, a feed, the release, and no action at all. -/
theorem witness_HardResetFromAnyState_asserted (a : HostAction) : ∃ s : State, s.inReset = true ∧ s.host = [a] :=
  ⟨{ State.reset with inReset := true, host := [a] }, rfl, rfl⟩
theorem witness_HardResetFromAnyState_idle : ∃ s : State, s.inReset = true ∧ s.host = [] := ⟨{ State.reset with inReset := true }, rfl, rfl⟩
theorem witness_HardResetFromAnyState_released : ∃ s : State, s.inReset = false ∧ s.host = [.releaseReset] :=
  ⟨{ waiting with host := [.releaseReset] }, rfl, rfl⟩

theorem witness_SoftResetFromAnyState_busy : ∃ s : State, s.busy = true ∧ s.pace = some 0 := ⟨{ waiting with pace := some 0 }, rfl, rfl⟩
theorem witness_SoftResetFromAnyState_idle : ∃ s : State, s.busy = false ∧ s.pace = some 1 ∧ s.err.code ≠ 0 :=
  ⟨{ failed with pace := some 1 }, rfl, rfl, by decide⟩
/-- Held before its first step, with a CMD write rejected meanwhile. -/
theorem witness_SoftResetFromAnyState_held : ∃ s : State, s.seq = .running 0x01 (.enter .softReset) [] ∧ s.pace = some 1 ∧ s.rej = true :=
  ⟨{ State.reset with seq := .running 0x01 (.enter .softReset) [], pace := some 1, rej := true }, rfl, rfl, rfl⟩

theorem witness_CmdWriteWhileBusy : ∃ (s : State) (w : Word), s.busy = true ∧ w ≠ 0x00000001 := ⟨waiting, 0x00000000, rfl, by decide⟩

theorem witness_CmdWriteWhileError_other : ∃ (s : State) (w : Word), s.seq = .idle ∧ s.err.code ≠ 0 ∧ w ≠ 0x00000001 ∧ w ≠ 0x00000002 :=
  ⟨failed, 0x00000003, rfl, by decide, by decide, by decide⟩
theorem witness_CmdWriteWhileError_held : ∃ s : State, s.seq = .idle ∧ s.err.code ≠ 0 ∧ s.pace = some 0 :=
  ⟨{ failed with pace := some 0 }, rfl, by decide, rfl⟩

theorem witness_AcceptingAnyWord : ∃ s : State, s.seq = .idle ∧ s.err.code = 0 ∧ s.pace = some 0 :=
  ⟨{ State.reset with pace := some 0 }, rfl, rfl, rfl⟩

theorem witness_IllegalWordRaisesBadCmd_rsvd : ∃ (s : State) (w : Word), s.Ready ∧ w.extractLsb' 8 24 ≠ 0 :=
  ⟨State.reset, 0x00000100, ready_reset, by decide⟩
theorem witness_IllegalWordRaisesBadCmd_opcode : ∃ (s : State) (w : Word), s.Ready ∧ ¬ (∃ i, opcodeOf i = w.setWidth 8) :=
  ⟨State.reset, 0x00000003, ready_reset, by rintro ⟨i, h⟩; cases i <;> exact absurd h (by decide)⟩
theorem witness_IllegalWordRaisesBadCmd_command : ∃ (w : Word) (i : Instr), w.extractLsb' 8 24 = 0 ∧ opcodeOf i = w.setWidth 8 :=
  ⟨0x00000081, .decompress, by decide, by decide⟩

theorem witness_ErrorsOfEachCommand : ∃ (i : Instr) (s t : State), s.seq = .idle ∧ s.err = .none ∧ exec i s = .next t ∧ t.err ≠ .none :=
  ⟨.unpack, State.reset, _, rfl, rfl, exec_after (by decide +kernel), by decide +kernel⟩

theorem witness_ErrorsOfEachCommand_illegal : ∃ (w : Word) (why : DecodeError) (s t : State), s.seq = .idle ∧ s.err = .none ∧
    decode w = .illegal why ∧ memWrite 0x0008 w s = .next t ∧ t.err ≠ .none :=
  ⟨0x00000111, .reservedBits, State.reset, State.reset.failedWith 0x11 .badCmd 0x11, rfl, rfl, by decide, by rfl, by decide⟩

theorem witness_RecordedErrorIsSticky : ∃ s t : State, s.ErrHolds ∧ s.err.code ≠ 0 ∧ step s = .next t :=
  ⟨{ failed with host := [cmdWrite 0x02] }, _, fun _ => .inl rfl, by decide, step_stepped (by decide +kernel)⟩

/-- StallsAndTheirEnds: one witness for each position. -/
theorem witness_StallsAndTheirEnds_read (pos : Pos) : ∃ s : State, s.seq = .running 0x11 pos [] ∧ s.host = [] ∧ s.pace = none ∧
    s.inReset = false ∧ s.inq = [] := ⟨{ State.reset with seq := .running 0x11 pos [] }, rfl, rfl, rfl, rfl, rfl⟩
theorem witness_StallsAndTheirEnds_emit (pos : Pos) : ∃ s : State, s.seq = .running 0x50 pos [] ∧ s.host = [] ∧ s.pace = none ∧
    s.inReset = false ∧ s.sink = [] ∧ s.sinkRest = none ∧ s.stack ≠ [] ∧ s.accN = 7 :=
  ⟨{ State.reset with seq := .running 0x50 pos [], stack := [{ node := 256 }], accN := 7 }, rfl, rfl, rfl, rfl, rfl, rfl,
    List.cons_ne_nil _ _, rfl⟩

theorem witness_NopOnlyFlags_ready : ∃ s : State, s.Ready := ⟨_, ready_reset⟩
theorem witness_NopOnlyFlags_error : ∃ s : State, s.seq = .idle ∧ s.err.code ≠ 0 := ⟨failed, rfl, by decide⟩

theorem witness_ClearErrClearsRecord : ∃ s : State, s.seq = .idle ∧ s.pace = none ∧ s.err.code ≠ 0 := ⟨failed, rfl, rfl, by decide⟩

theorem witness_FreqClearZeroesTable : ∃ s : State, s.Ready := ⟨_, ready_codesAB⟩

theorem nearlyFull_counts : nearlyFull.CountsAgree := ⟨by decide +kernel, by decide +kernel⟩

/-- At the edge: the last count brings TOTAL to 2^32 - 1. -/
theorem witness_FreqCountAddsPass : ∃ (s : State) (bytes : List Byte) (rest : List Token), s.Ready ∧ s.CountsAgree ∧
    s.inq = passOf bytes rest ∧ s.total.toNat + bytes.length < 2 ^ 32 ∧ bytes ≠ [] :=
  ⟨{ nearlyFull with inq := passOf [0x61] [] }, [0x61], [], ⟨rfl, rfl, rfl⟩, nearlyFull_counts, rfl, by decide, by decide⟩

theorem witness_FreqCountErrors_fail : ∃ (s : State) (bytes : List Byte) (rest : List Token), s.Ready ∧ s.CountsAgree ∧
    s.inq = bytes.map .byte ++ .fail :: rest ∧ s.total.toNat + bytes.length < 2 ^ 32 :=
  ⟨{ nearlyFull with inq := [.byte 0x61, .fail] }, [0x61], [], ⟨rfl, rfl, rfl⟩, nearlyFull_counts, rfl, by decide⟩
theorem witness_FreqCountErrors_overflow : ∃ (s : State) (bytes : List Byte) (rest : List Token) (b : Byte), s.Ready ∧ s.CountsAgree ∧
    s.inq = bytes.map .byte ++ .byte b :: rest ∧ s.total.toNat + bytes.length = 2 ^ 32 - 1 :=
  ⟨{ nearlyFull with inq := passOf [0x61, 0x62] [] }, [0x61], [.endOfPass], 0x62, ⟨rfl, rfl, rfl⟩, nearlyFull_counts, rfl, by decide⟩

theorem witness_HeapBuildMakesHeap : ∃ s : State, s.Ready ∧ s.usedSymbols.length = 2 := ⟨countedAB, ready_countedAB, by decide +kernel⟩

theorem witness_TreeStepOnSmallHeap : ∃ s : State, s.Ready ∧ s.live = 1 := ⟨treeAB, ready_treeAB, by decide +kernel⟩

/-- The heap order of a concrete heap, by evaluation. -/
theorem heapOrdered_of {s : State} {n : Nat} (hn : s.live = n)
    (h : (List.range n).all (fun i => i == 0 ||
      (decide ((s.weight (s.heapAt ((i - 1) / 2))).toNat < (s.weight (s.heapAt i)).toNat) ||
        (decide ((s.weight (s.heapAt ((i - 1) / 2))).toNat = (s.weight (s.heapAt i)).toNat) &&
          decide ((s.heapAt ((i - 1) / 2)).toNat < (s.heapAt i).toNat)))) = true) : s.HeapOrdered := by
  intro i h0 hi
  have := List.all_eq_true.1 h i (List.mem_range.2 (hn ▸ hi))
  simpa [Nat.pos_iff_ne_zero.1 h0, State.Before] using this

/-- At both edges: slot 256 next and slot 510 next. -/
theorem witness_TreeStepMergesTwoLeast (k : Idx) (h : k = 256 ∨ k = 510) : ∃ s : State, s.Ready ∧ 2 ≤ s.live ∧ s.live ≤ 256 ∧
    s.liveHeap.Nodup ∧ 256 ≤ s.nextInt.toNat ∧ s.nextInt.toNat ≤ 510 ∧ (∀ n ∈ s.liveHeap, n.toNat < s.nextInt.toNat) ∧ s.HeapOrdered ∧
    s.nextInt = k := by
  rcases h with rfl | rfl
  · exact ⟨heapAB, ready_heapAB, by decide +kernel, by decide +kernel, by decide +kernel, by decide, by decide, by decide +kernel,
      heapOrdered_of (n := 2) (by decide +kernel) (by decide +kernel), rfl⟩
  · exact ⟨{ heapAB with nextInt := 510 }, ⟨rfl, rfl, rfl⟩, by decide +kernel, by decide +kernel, by decide +kernel, by decide, by decide,
      by decide +kernel, heapOrdered_of (n := 2) (by decide +kernel) (by decide +kernel), rfl⟩

theorem witness_TreeBuildOnFinishedHeap_empty : ∃ s : State, s.Ready ∧ s.live = 0 := ⟨State.reset, ready_reset, by decide⟩
theorem witness_TreeBuildOnFinishedHeap_first : ∃ s : State, s.Ready ∧ s.live = 1 ∧ (s.heapAt 0).toNat = 256 :=
  ⟨treeAB, ready_treeAB, by decide +kernel, by decide +kernel⟩
theorem witness_TreeBuildOnFinishedHeap_last : ∃ s : State, s.Ready ∧ s.live = 1 ∧ (s.heapAt 0).toNat = 510 :=
  ⟨treeAB.setHeap 0 510, ⟨rfl, rfl, rfl⟩, by decide +kernel, by decide +kernel⟩

theorem witness_TreeBuildSingleSymbol : ∃ (s : State) (v : Byte), s.Ready ∧ s.live = 1 ∧ s.heapAt 0 = leafSlot v ∧ s.nextInt = 256 :=
  ⟨{ countedAB.setHeap 0 0x61 with heapSize := 1 }, 0x61, ⟨rfl, rfl, rfl⟩, by decide +kernel, by decide +kernel, rfl⟩

theorem witness_TreeBuildMakesTree : ∃ (s : State) (vs : List Byte), s.Ready ∧ s.live = vs.length ∧ s.liveHeap = vs.map leafSlot ∧ vs.Nodup ∧
    2 ≤ vs.length ∧ s.nextInt = 256 ∧ (vs.map (fun v => (s.freqOf v).toNat)).sum < 2 ^ 32 :=
  ⟨heapAB, [0x62, 0x61], ready_heapAB, by decide +kernel, by decide +kernel, by decide, by decide, rfl, by decide +kernel⟩
theorem symbols_nodup : symbols.Nodup := by
  refine List.Nodup.map_on (fun x hx y hy h => ?_) List.nodup_range
  have := congrArg BitVec.toNat h
  simp only [List.mem_range] at hx hy
  simpa [Nat.mod_eq_of_lt hx, Nat.mod_eq_of_lt hy] using this
/-- At the edge: all 256 symbols. -/
theorem witness_TreeBuildMakesTree_full : ∃ (s : State) (vs : List Byte), s.Ready ∧ s.live = vs.length ∧ s.liveHeap = vs.map leafSlot ∧
    vs.Nodup ∧ vs.length = 256 ∧ s.nextInt = 256 :=
  ⟨heapAll, symbols, ⟨rfl, rfl, rfl⟩, by decide +kernel, by decide +kernel, symbols_nodup, by decide +kernel, rfl⟩

theorem witness_TreeStepThenBuildIsBuild : ∃ s t u : State, s.Ready ∧ exec .treeStep s = .next t ∧ exec .treeBuild s = .next u ∧ t.live = 1 :=
  ⟨heapAB, _, _, ready_heapAB, exec_after (by decide +kernel), exec_after (by decide +kernel), by decide +kernel⟩

theorem witness_CodesDeriveRecordsPaths : ∃ (s : State) (tree : CodeTree), s.Ready ∧ s.HasTree tree := ⟨_, _, ready_treeAB, hasTree_treeAB⟩
theorem witness_CodesDeriveRecordsPaths_none : ∃ s : State, s.Ready ∧ s.root = 511 := ⟨State.reset, ready_reset, rfl⟩

theorem witness_DerivedCodesArePrefixFree : ∃ (s t : State) (tree : CodeTree) (u v : Byte), s.Ready ∧ s.HasTree tree ∧
    exec .codesDerive s = .next t ∧ u ≠ v ∧ t.codeLenOf u ≠ 0 ∧ t.codeLenOf v ≠ 0 :=
  ⟨treeAB, _, shapeAB, 0x61, 0x62, ready_treeAB, hasTree_treeAB, exec_after (by decide +kernel), by decide, by decide +kernel, by decide +kernel⟩

theorem witness_TreeSerializeEmitsHeader : ∃ (s : State) (tree : CodeTree), s.Ready ∧ s.HasTree tree ∧ s.Accepts tree.header.length :=
  ⟨treeAB, shapeAB, ready_treeAB, hasTree_treeAB, accepts_of (by decide +kernel)⟩
theorem witness_TreeSerializeEmitsHeader_none : ∃ s : State, s.Ready ∧ s.root = 511 := ⟨State.reset, ready_reset, rfl⟩
/-- At both edges: the first and the last byte of the header fail; from the queue, and from the answer to every later offer. -/
theorem witness_SinkFailureRaisesSnkIo_serialize : ∀ k < shapeAB.header.length, ∃ s : State, s.Ready ∧ s.HasTree shapeAB ∧ s.FailsAt k := by
  intro k hk
  have fails : ∀ k < 5, (List.range k).all (fun j =>
      ({ treeAB with sink := List.replicate k .ok, sinkRest := some .fail } : State).answerAt j == some .ok) ∧
      ({ treeAB with sink := List.replicate k .ok, sinkRest := some .fail } : State).answerAt k = some .fail := by decide +kernel
  exact ⟨{ treeAB with sink := List.replicate k .ok, sinkRest := some .fail }, ⟨rfl, rfl, rfl⟩, hasTree_treeAB,
    accepts_of (fails k hk).1, (fails k hk).2⟩

/-- PACK of nine coded bytes: the eighth one completes a payload byte, which the sink fails; and the partial byte of a pass of nine. -/
theorem witness_SinkFailureRaisesSnkIo_pack : ∃ (s : State) (bytes : List Byte) (b : Byte) (k : Nat) (rest : List Token), s.Ready ∧
    (∀ c ∈ bytes ++ [b], s.codeLenOf c ≠ 0) ∧ s.inq = (bytes ++ [b]).map .byte ++ rest ∧ s.FailsAt k ∧
    (s.payloadBits bytes).length < 8 * (k + 1) ∧ 8 * (k + 1) ≤ (s.payloadBits (bytes ++ [b])).length :=
  ⟨{ codesAB with inq := bytesIn (List.replicate 8 0x61), sink := [.fail] }, List.replicate 7 0x61, 0x61, 0, [], ⟨rfl, rfl, rfl⟩,
    by decide +kernel, by decide +kernel, ⟨accepts_of (by decide), rfl⟩, by decide +kernel, by decide +kernel⟩
theorem witness_SinkFailureRaisesSnkIo_flush : ∃ (s : State) (bytes : List Byte) (k : Nat) (rest : List Token), s.Ready ∧
    (∀ c ∈ bytes, s.codeLenOf c ≠ 0) ∧ s.inq = passOf bytes rest ∧ s.FailsAt k ∧ k = (s.payloadBits bytes).length / 8 ∧
    (s.payloadBits bytes).length % 8 ≠ 0 :=
  ⟨{ codesAB with inq := passOf (List.replicate 9 0x61) [], sink := [.ok, .fail] }, List.replicate 9 0x61, 1, [], ⟨rfl, rfl, rfl⟩,
    by decide +kernel, rfl, ⟨accepts_of (by decide +kernel), rfl⟩, by decide +kernel, by decide +kernel⟩
/-- UNPACK: the last byte of the walk of 0xE0 fails. -/
theorem witness_SinkFailureRaisesSnkIo_unpack : ∃ (s : State) (tree : CodeTree) (payload : List Byte) (b v : Byte) (k : Nat) (rest : List Token),
    s.Ready ∧ s.HasTree tree ∧ s.inq = (payload ++ [b]).map .byte ++ rest ∧ s.FailsAt k ∧ (tree.unpacked payload).1.length ≤ k ∧
    (tree.unpacked (payload ++ [b])).1[k]? = some v :=
  ⟨{ treeAB with inq := [.byte 0xE0], sink := List.replicate 7 .ok ++ [.fail] }, shapeAB, [], 0xE0, 0x62, 7, [], ⟨rfl, rfl, rfl⟩,
    hasTree_treeAB, rfl, ⟨accepts_of (by decide +kernel), by decide +kernel⟩, by decide, by decide +kernel⟩
/-- A COMPRESS that a sink accepting every offer lets complete, and that the sink fails in the payload. -/
theorem witness_SinkFailureRaisesSnkIo_compress : ∃ (i : Instr) (s u : State) (emitted : List Byte) (k : Nat) (v : Byte), i = .compress ∧
    s.Ready ∧ s.FailsAt k ∧ exec i s.accepting = .next u ∧ u.out = s.out ++ emitted ∧ emitted[k]? = some v :=
  ⟨.compress, { fed (passOf aaab (passOf aaab [])) with sink := List.replicate 5 .ok ++ [.fail] }, _, [0x00, 0x01, 0x62, 0x01, 0x61, 0xE0], 5,
    0xE0, rfl, ⟨rfl, rfl, rfl⟩, ⟨accepts_of (by decide +kernel), by decide +kernel⟩, exec_after (by decide +kernel), by decide +kernel,
    by decide⟩

theorem witness_TreeDeserializeBuildsTree : ∃ (s : State) (tree : CodeTree) (rest : List Token), s.Ready ∧ tree.isNode = true ∧
    tree.internals ≤ 255 ∧ s.inq = tree.header.map .byte ++ rest :=
  ⟨fed (shapeAB.header.map .byte), shapeAB, [], ready_fed _, rfl, by decide, by simp [fed]⟩
theorem witness_TreeDeserializeEmptyArtifact : ∃ (s : State) (rest : List Token), s.Ready ∧ s.inq = .endOfPass :: rest :=
  ⟨fed [.endOfPass], [], ready_fed _, rfl⟩
/-- Every end that headerEnd knows happens. -/
theorem witness_TreeDeserializeFollowsCount : (fed []).Ready ∧ headerEnd true 1 0 [] = .starved ∧ headerEnd true 1 0 [.endOfPass] = .empty [] ∧
    headerEnd true 1 0 (passOf [0x00, 0x02] []) = .bad .badTag 0x02 [.endOfPass] ∧
    headerEnd true 1 0 (bytesIn (List.replicate 256 0x00)) = .bad .treeTooLarge 0 [] ∧
    headerEnd true 1 0 (passOf shapeAB.header []) = .complete [.endOfPass] :=
  ⟨ready_fed _, by decide, by decide, by decide, by decide +kernel, by decide⟩

theorem witness_PutBitFillsThenEmits_fill : ∃ s : State, s.AccBounded ∧ s.accN = 6 :=
  ⟨{ State.reset with accN := 6, acc := 63 }, by show (63 : Byte).toNat < 2 ^ (6 : BitVec 3).toNat; decide, rfl⟩
theorem witness_PutBitFillsThenEmits_emit (a : SinkAnswer) : ∃ s : State, s.AccBounded ∧ s.accN = 7 ∧ s.pace = none ∧ s.answerAt 0 = some a :=
  ⟨{ State.reset with accN := 7, acc := 127, sink := [a] }, by show (127 : Byte).toNat < 2 ^ (7 : BitVec 3).toNat; decide, rfl, rfl, rfl⟩

theorem witness_PackEmitsPayload : ∃ (s : State) (bytes : List Byte) (rest : List Token), s.Ready ∧
    (∀ b ∈ bytes, s.codeLenOf b ≠ 0) ∧ s.inq = passOf bytes rest ∧ s.Accepts (packBytes (s.payloadBits bytes)).length ∧ bytes ≠ [] :=
  ⟨{ codesAB with inq := passOf aaab [] }, aaab, [], ⟨rfl, rfl, rfl⟩, by decide +kernel, rfl, accepts_of (by decide +kernel), by decide⟩
theorem witness_PackCodeMiss : ∃ (s : State) (bytes : List Byte) (b : Byte) (rest : List Token), s.Ready ∧
    (∀ c ∈ bytes, s.codeLenOf c ≠ 0) ∧ s.codeLenOf b = 0 ∧ s.inq = bytes.map .byte ++ .byte b :: rest ∧
    s.Accepts ((s.payloadBits bytes).length / 8) ∧ bytes ≠ [] :=
  ⟨{ codesAB with inq := passOf (aaab ++ [0x63]) [] }, aaab, 0x63, [.endOfPass], ⟨rfl, rfl, rfl⟩, by decide +kernel,
    by decide +kernel, rfl, accepts_of (by decide +kernel), by decide⟩

theorem witness_UnpackWalksTree : ∃ (s : State) (tree : CodeTree) (payload : List Byte) (rest : List Token), s.Ready ∧ s.HasTree tree ∧
    s.inq = passOf payload rest ∧ s.Accepts (tree.unpacked payload).1.length ∧ payload ≠ [] :=
  ⟨{ treeAB with inq := passOf [0xE0] [] }, shapeAB, [0xE0], [], ⟨rfl, rfl, rfl⟩, hasTree_treeAB, rfl, accepts_of (by decide +kernel),
    by decide⟩
theorem witness_UnpackWithoutTree : ∃ s : State, s.Ready ∧ s.root = 511 := ⟨State.reset, ready_reset, rfl⟩
theorem witness_UnpackWithoutTree_decompress : ∃ s t : State, s.seq = .idle ∧ s.err = .none ∧ exec .decompress s = .next t :=
  ⟨fed [.fail], _, rfl, rfl, exec_after (by decide +kernel)⟩
/-- "aaab" without its `End`, for FREQ_COUNT, PACK and UNPACK. -/
theorem witness_StallsAndTheirEnds_freqCount : ∃ (s : State) (bytes : List Byte), s.Ready ∧ s.CountsAgree ∧ s.inq = bytes.map .byte ∧
    s.total.toNat + bytes.length = 2 ^ 32 - 1 :=
  ⟨{ nearlyFull with inq := [.byte 0x61] }, [0x61], ⟨rfl, rfl, rfl⟩, nearlyFull_counts, rfl, by decide⟩
theorem witness_StallsAndTheirEnds_pack (ts : List Token) : ∃ (s : State) (bytes : List Byte), s.Ready ∧ (∀ b ∈ bytes, s.codeLenOf b ≠ 0) ∧
    s.inq = bytes.map .byte ++ ts ∧ s.Accepts ((s.payloadBits bytes).length / 8) ∧ bytes ≠ [] :=
  ⟨{ codesAB with inq := aaab.map .byte ++ ts }, aaab, ⟨rfl, rfl, rfl⟩, (by decide +kernel : ∀ b ∈ aaab, codesAB.codeLenOf b ≠ 0), rfl,
    (accepts_of (by decide +kernel) : codesAB.Accepts ((codesAB.payloadBits aaab).length / 8)), by decide⟩
theorem witness_StallsAndTheirEnds_unpack (ts : List Token) : ∃ (s : State) (tree : CodeTree) (payload : List Byte), s.Ready ∧ s.HasTree tree ∧
    s.inq = payload.map .byte ++ ts ∧ s.Accepts (tree.unpacked payload).1.length ∧ payload ≠ [] :=
  ⟨{ treeAB with inq := [.byte 0xE0] ++ ts }, shapeAB, [0xE0], ⟨rfl, rfl, rfl⟩, hasTree_treeAB, rfl,
    (accepts_of (by decide +kernel) : treeAB.Accepts (shapeAB.unpacked [0xE0]).1.length), by decide⟩
/-- A command that stops to wait for tokens, and one that stops to wait for an answer. -/
theorem witness_StallsAndTheirEnds_tokens : ∃ (w : Word) (s t : State), s.seq = .idle ∧ s.pace = none ∧ memWrite 0x0008 w s = .next t ∧
    t.busy = true := ⟨0x11, State.reset, { State.reset with seq := .running 0x11 .count [] }, rfl, rfl, by rfl, rfl⟩
theorem witness_StallsAndTheirEnds_answers : ∃ (w : Word) (s t : State), s.seq = .idle ∧ s.pace = none ∧ s.sinkRest = none ∧
    memWrite 0x0008 w s = .next t ∧ t.busy = true ∧ t.outCount = 2 :=
  ⟨0x50, { treeAB with sink := [.ok, .ok] }, after .treeSerialize { treeAB with sink := [.ok, .ok] }, rfl, rfl, rfl,
    exec_after (i := .treeSerialize) (s := { treeAB with sink := [.ok, .ok] }) (by decide +kernel), by decide +kernel, by decide +kernel⟩

/-- After some bytes: PACK and UNPACK as above with a `Fail` as the next token, DECOMPRESS and COMPRESS below. -/
theorem witness_FailTokenRaisesSrcIo_decompress : ∃ (s : State) (tree : CodeTree) (payload : List Byte) (rest : List Token), s.Ready ∧
    tree.isNode = true ∧ tree.internals ≤ 255 ∧ s.inq = (tree.header ++ payload).map .byte ++ .fail :: rest ∧
    s.Accepts (tree.unpacked payload).1.length ∧ payload ≠ [] :=
  ⟨fed ((shapeAB.header ++ [0xE0]).map .byte ++ [.fail]), shapeAB, [0xE0], [], ready_fed _, rfl, by decide, rfl,
    accepts_of (by decide +kernel), by decide⟩
theorem witness_FailTokenRaisesSrcIo_compress : ∃ (s : State) (input bytes : List Byte) (rest : List Token), s.Ready ∧
    input.length < 2 ^ 32 ∧ input ≠ [] ∧ (∀ b ∈ bytes, b ∈ input) ∧ s.inq = passOf input (bytes.map .byte ++ .fail :: rest) ∧
    s.Accepts (768 + 32 * bytes.length) ∧ bytes ≠ [] :=
  ⟨(fed (passOf aaab ([0x62, 0x61].map .byte ++ [.fail]))).accepting, aaab, [0x62, 0x61], [], ⟨rfl, rfl, rfl⟩, by decide, by decide, by decide,
    rfl, fun k _ => by simp [State.answerAt, State.accepting], by decide⟩
theorem witness_FailTokenRaisesSrcIo_empty : ∃ (s : State) (rest : List Token), s.Ready ∧ s.inq = .endOfPass :: .fail :: rest :=
  ⟨fed [.endOfPass, .fail], [], ready_fed _, rfl⟩
theorem witness_FailTokenRaisesSrcIo : ∃ (s : State) (rest : List Token), s.Ready ∧ s.inq = .fail :: rest ∧ s.root ≠ 511 :=
  ⟨{ treeAB with inq := [.fail] }, [], ⟨rfl, rfl, rfl⟩, rfl, by decide⟩

theorem witness_CompressEmptyInput : ∃ (s : State) (rest : List Token), s.Ready ∧ s.inq = .endOfPass :: .endOfPass :: rest :=
  ⟨fed [.endOfPass, .endOfPass], [], ready_fed _, rfl⟩
theorem witness_CompressEmptyInput_byte : ∃ (s : State) (b : Byte) (rest : List Token), s.Ready ∧ s.inq = .endOfPass :: .byte b :: rest :=
  ⟨fed [.endOfPass, .byte 0x61, .endOfPass], 0x61, [.endOfPass], ready_fed _, rfl⟩
theorem witness_DecompressDecodesArtifact : ∃ (s : State) (tree : CodeTree) (payload : List Byte) (rest : List Token), s.Ready ∧
    tree.isNode = true ∧ tree.internals ≤ 255 ∧ s.inq = passOf (tree.header ++ payload) rest ∧ s.Accepts (tree.unpacked payload).1.length :=
  ⟨fed (passOf (shapeAB.header ++ [0xE0]) []), shapeAB, [0xE0], [], ready_fed _, rfl, by decide, rfl, accepts_of (by decide +kernel)⟩

/-- One command of a sequence that completes. -/
theorem completes_cons {i : Instr} {is : List Instr} {s t : State} {n m : Word} (h : runs i s = true) (hq : (after i s).seq = .idle)
    (hd : (after i s).done = true) (ht : Completes is (after i s) n m t) :
    Completes (i :: is) s ((after i s).inCount + n) ((after i s).outCount + m) t := ⟨_, _, _, exec_after h, hq, hd, ht, rfl, rfl⟩
theorem completes_nil (s : State) : Completes [] s 0 0 s := ⟨rfl, rfl, rfl⟩

/-- A whole sequence that completes, by evaluation. -/
def lastOf : List Instr → State → State
  | [], s => s
  | i :: is, s => lastOf is (after i s)
def allComplete : List Instr → State → Bool
  | [], _ => true
  | i :: is, s => runs i s && decide ((after i s).seq = .idle) && (after i s).done && allComplete is (after i s)
theorem completes_of {is : List Instr} {s : State} (h : allComplete is s = true) : ∃ t n m, Completes is s n m t ∧ lastOf is s = t := by
  induction is generalizing s with
  | nil => exact ⟨s, 0, 0, completes_nil s, rfl⟩
  | cons i is ih =>
    simp only [allComplete, Bool.and_eq_true, decide_eq_true_eq] at h
    obtain ⟨t, n, m, hc, hl⟩ := ih h.2
    exact ⟨t, _, _, completes_cons h.1.1.1 h.1.1.2 h.1.2 hc, hl⟩

theorem witness_CompressEqualsSequence : ∃ (s t : State) (n m : Word), s.Ready ∧ Completes compressCommands s n m t ∧ t.out.length = 6 := by
  obtain ⟨t, n, m, hc, ht⟩ := completes_of (is := compressCommands) (s := fed (passOf aaab (passOf aaab []))) (by decide +kernel)
  exact ⟨_, t, n, m, ready_fed _, hc, ht ▸ by decide +kernel⟩
/-- A FREQ_COUNT that raises, and one that waits, after FREQ_CLEAR. -/
theorem witness_CompressEqualsSequence_second (ts : List Token) (h : ts = [.fail] ∨ ts = []) : ∃ (s s1 t : State) (n m : Word), s.Ready ∧
    [Instr.freqClear] ++ .freqCount :: compressCommands.drop 2 = compressCommands ∧ Completes [.freqClear] s n m s1 ∧
    exec .freqCount s1 = .next t ∧ t.done = false := by
  rcases h with rfl | rfl
  · exact ⟨fed [.fail], _, _, _, _, ready_fed _, rfl, completes_cons (by decide +kernel) (by decide +kernel) (by decide +kernel) (completes_nil _),
      exec_after (by decide +kernel), by decide +kernel⟩
  · exact ⟨fed [], _, _, _, _, ready_fed _, rfl, completes_cons (by decide +kernel) (by decide +kernel) (by decide +kernel) (completes_nil _),
      exec_after (by decide +kernel), by decide +kernel⟩
theorem witness_DecompressEqualsSequence_first : ∃ s t : State, s.Ready ∧ exec .treeDeserialize s = .next t ∧ t.done = false :=
  ⟨fed [.fail], _, ready_fed _, exec_after (by decide +kernel), by decide +kernel⟩
theorem witness_DecompressEqualsSequence_empty : ∃ (s s1 : State) (n m : Word), s.Ready ∧ Completes [.treeDeserialize] s n m s1 ∧
    s1.emptyArt = true := by
  refine ⟨fed [.endOfPass], _, _, _, ready_fed _, completes_cons ?_ ?_ ?_ (completes_nil _), ?_⟩
  all_goals decide +kernel
theorem witness_DecompressEqualsSequence : ∃ (s s1 t : State) (n m : Word), s.Ready ∧ Completes [.treeDeserialize] s n m s1 ∧
    s1.emptyArt = false ∧ exec .unpack s1 = .next t := by
  refine ⟨fed (passOf (shapeAB.header ++ [0xE0]) []), _, _, _, _, ready_fed _, completes_cons ?_ ?_ ?_ (completes_nil _), ?_, exec_after ?_⟩
  all_goals decide +kernel

/-- Both commands: an empty input and "aaab". -/
theorem witness_CompressThenDecompress (input : List Byte) (h : input = [] ∨ input = aaab) : ∃ (s u : State) (artifact : List Byte)
    (rest rest' : List Token), s.Ready ∧ u.Ready ∧ input.length < 2 ^ 32 ∧ s.inq = passOf input (passOf input rest) ∧
    s.Accepts (768 + 32 * input.length) ∧ (after .compress s).out = s.out ++ artifact ∧ u.inq = passOf artifact rest' ∧
    u.Accepts (256 * input.length) := by
  have all : ∀ (s : State) (n : Nat), s.accepting.Accepts n := fun s n k _ => by simp [State.answerAt, State.accepting]
  rcases h with rfl | rfl
  · exact ⟨(fed (passOf [] (passOf [] []))).accepting, (fed (passOf [] [])).accepting, [], [], [],
      ⟨rfl, rfl, rfl⟩, ⟨rfl, rfl, rfl⟩, by decide, rfl, all _ _, by decide +kernel, rfl, all _ _⟩
  · exact ⟨(fed (passOf aaab (passOf aaab []))).accepting, (fed (passOf [0x00, 0x01, 0x62, 0x01, 0x61, 0xE0] [])).accepting,
      [0x00, 0x01, 0x62, 0x01, 0x61, 0xE0], [], [], ⟨rfl, rfl, rfl⟩, ⟨rfl, rfl, rfl⟩, by decide, rfl, all _ _, by decide +kernel, rfl, all _ _⟩

/-- Each command of the frames answers a next state. -/
theorem witness_TableCommandFrames (i : Instr)
    (h : i ∈ [Instr.nop, .clearErr, .freqClear, .heapBuild, .treeStep, .treeBuild, .codesDerive]) : ∃ t, exec i heapAB = .next t := by
  have : ∀ j ∈ [Instr.nop, .clearErr, .freqClear, .heapBuild, .treeStep, .treeBuild, .codesDerive], runs j heapAB = true := by decide +kernel
  exact ⟨_, exec_after (this i h)⟩
theorem witness_StreamCommandFrames (i : Instr) (h : i ∈ [Instr.freqCount, .treeSerialize, .treeDeserialize, .pack, .unpack]) :
    ∃ s t, exec i s = .next t := by
  have : ∀ j ∈ [Instr.freqCount, .treeSerialize, .treeDeserialize, .pack, .unpack], runs j { codesAB with inq := passOf aaab [] } = true := by
    decide +kernel
  exact ⟨_, _, exec_after (this i h)⟩
theorem witness_CompositeCommandFrames (i : Instr) (h : i = .compress ∨ i = .decompress) : ∃ s t, exec i s = .next t := by
  rcases h with rfl | rfl
  · exact ⟨fed (passOf aaab (passOf aaab [])), _, exec_after (by decide +kernel)⟩
  · exact ⟨fed (passOf (shapeAB.header ++ [0xE0]) []), _, exec_after (by decide +kernel)⟩
theorem witness_StreamsOnlyMoveForward : ∃ s t : State, exec .freqCount s = .next t ∧ t.inq = [] ∧ s.inq ≠ [] :=
  ⟨fed (passOf aaab []), _, exec_after (by decide +kernel), by decide +kernel, by decide⟩
theorem witness_StreamsOnlyMoveForward_step : ∃ s t : State, step s = .next t :=
  ⟨{ treeAB with host := [cmdWrite 0x50] }, _, step_stepped (by decide +kernel)⟩

theorem witness_RegisterMapRoundTrip : ∃ (a : Offset) (r : Reg), regAt a = some r := ⟨0x3FFC, .codeBits 255 7, by decide⟩
theorem witness_MisalignedAndReservedAccess : ∀ a ∈ [(0x0001 : Offset), 0x3FFF, 0x0038, 0x03FC, 0x0FFC, 0x13FC, 0x1800, 0x1FFC],
    (a.toNat % 4 ≠ 0 ∨ (0x0038 ≤ a.toNat ∧ a.toNat ≤ 0x03FC) ∨ a.toNat = 0x0FFC ∨ a.toNat = 0x13FC ∨ (0x1800 ≤ a.toNat ∧ a.toNat ≤ 0x1FFC)) := by
  simp
theorem witness_OnlyCmdAndStatusWritable : ∃ a : Offset, a ≠ 0x0008 ∧ a ≠ 0x000C := ⟨0x0400, by decide, by decide⟩
theorem witness_ReadsExactOrFree_idle : ∃ s : State, s.busy = false := ⟨State.reset, rfl⟩
theorem witness_ReadsExactOrFree_busy : ∃ (s : State) (r r' : Reg), s.busy = true ∧
    r ∈ [Reg.status, Reg.err, Reg.inCount, Reg.outCount, Reg.id, Reg.version] ∧
    r' ∉ [Reg.status, Reg.err, Reg.inCount, Reg.outCount, Reg.id, Reg.version, Reg.cmd] :=
  ⟨waiting, .inCount, .total, rfl, by decide, by decide⟩

theorem witness_StepRunsDecodedCommand : ∃ (s : State) (w : Word) (i : Instr) (rest : List HostAction), s.inReset = false ∧
    s.host = .write 0x0008 w :: rest ∧ decode w = .command i :=
  ⟨{ State.reset with host := [cmdWrite 0x31] }, 0x31, .treeBuild, [], rfl, rfl, by decide⟩
theorem witness_DecodeEncodeAgree : ∃ (w : Word) (i : Instr) (bytes : List Byte), i.wellFormed = true ∧ decode w = .command i ∧
    decodeBytes bytes = .command i := ⟨0x51, .treeDeserialize, [0x51, 0x00, 0x00, 0x00], rfl, by decide, by decide⟩
theorem witness_HostStreamsAndPrograms : ∃ s s' u a : State, s.host = [.feed [⟨3, 0⟩]] ∧ (s'.host = [.withdraw] ∧ s'.busy = false) ∧
    (u.host = [.withdraw] ∧ u.busy = true) ∧ a.host = [.answer [1] (some 0)] ∧ [s, s', u, a].all (fun x => !x.inReset) = true :=
  ⟨{ State.reset with host := [.feed [⟨3, 0⟩]] }, { fed [.fail] with host := [.withdraw] }, { waiting with host := [.withdraw] },
    { State.reset with host := [.answer [1] (some 0)] }, rfl, ⟨rfl, rfl⟩, ⟨rfl, rfl⟩, rfl, rfl⟩
/-- A program at each of its statements; at WAIT the command waits for tokens, and at SINK FAIL k is 1, the least. -/
theorem witness_HostStreamsAndPrograms_program : ∃ r : ProgramRun, r.machine.inReset = false ∧ r.todo = [.sinkFail 1] ∧ r.machine.busy = false :=
  ⟨.start [.stmt (.sinkFail 1)] State.reset, rfl, rfl, rfl⟩
theorem witness_HostStreamsAndPrograms_wait : ∃ (r : ProgramRun) (u : State), r.machine.inReset = false ∧ r.todo = [.wait] ∧
    State.resume { r.machine with host := [], pace := none } = .next u ∧ u.busy = true :=
  ⟨.start [.stmt .wait] waiting, { waiting with sinkRest := some .ok }, rfl, rfl, by rfl, rfl⟩
theorem witness_HostStreamsAndPrograms_checks : ∃ r r' : ProgramRun, r.todo = [.read .total (some 0)] ∧ r.machine.busy = false ∧
    r'.todo = [.expectOut []] :=
  ⟨.start [.stmt (.read .total (some 0))] State.reset, .start [.stmt (.expectOut [])] State.reset, rfl, rfl, rfl⟩

/-- heapAB's live entries are its two leaves, NIL after them. -/
theorem heapAB_tail (s : State) (h : s.heap = heapAB.heap) (hs : s.heapSize = 2) : s.HeapTailNil := by
  refine ⟨by simp [State.live, hs], fun i hi => ?_⟩
  have hi' : 2 ≤ i := by simpa [State.live, hs] using hi
  unfold State.heapAt
  split
  · next hlt =>
    rw [h, show heapAB.heap = ((Table.fill 256 Config.nil).set 0 0x62).set 1 0x61 from rfl]
    rw [Table.get_set_ne _ _ (by simp [Fin.ext_iff]; omega), Table.get_set_ne _ _ (by simp [Fin.ext_iff]; omega), Table.get_fill]
  · rfl

/-- A state that meets every invariant, with a TREE_BUILD to come. -/
theorem witness_StepKeepsInvariants : ∃ s t : State, s.Inv ∧ step s = .next t ∧ t.treeValid = true := by
  refine ⟨{ heapAB with host := [cmdWrite 0x31] }, _,
    { counts := ⟨by decide +kernel, by decide +kernel⟩, heapTail := heapAB_tail _ rfl rfl, acc := by show (0 : Nat) < 1; decide
      codes := fun v => ?_, errLegal := .inl rfl, errHolds := fun h => absurd rfl h, seqLegal := trivial, busyNotDone := fun h => nomatch h
      resetHolds := fun h => nomatch h
      stack := by show (0 : Nat) ≤ 256; decide }, step_stepped (by decide +kernel), by decide +kernel⟩
  show ((Table.fill 256 0 : Table Code 256).get (symIndex v)).toNat < _
  rw [Table.get_fill]
  exact Nat.two_pow_pos _

theorem treesOk_heapAB : heapAB.TreesOk where
  tail := heapAB_tail _ rfl rfl
  root := .inl rfl
  rootAlone h := absurd rfl h
  forest := by
    refine .inr ⟨[.leaf 0x62, .leaf 0x61], ?_, by decide, by decide +kernel⟩
    rw [show heapAB.liveHeap = [leafSlot 0x62, leafSlot 0x61] by decide +kernel]
    exact .cons rfl (.cons rfl .nil)

theorem witness_CommandsKeepTrees : ∃ (i : Instr) (s t : State), s.Ready ∧ s.TreesOk ∧ exec i s = .next t ∧ t.seq = .idle ∧ t.root ≠ 511 :=
  ⟨.treeBuild, heapAB, _, ready_heapAB, treesOk_heapAB, exec_after (by decide +kernel), by decide +kernel, by decide +kernel⟩
theorem witness_CommandsNeverStop : ∃ s : State, s.Ready ∧ s.TreesOk := ⟨_, ready_heapAB, treesOk_heapAB⟩
/-- An engine held after six transfers of a COMPRESS. -/
theorem witness_HoldingChangesNothing : ∃ (i : Instr) (s t : State) (n : Nat), s.seq = .idle ∧ exec i { s with pace := some n } = .next t ∧
    t.busy = true :=
  ⟨.compress, fed (passOf aaab (passOf aaab [])), _, 6, rfl, exec_after (by decide +kernel), by decide +kernel⟩
/-- An illegal word held before its raise. -/
theorem witness_HoldingChangesNothing_illegal : ∃ (w : Word) (s t : State) (n : Nat), s.seq = .idle ∧
    memWrite 0x0008 w { s with pace := some n } = .next t ∧ t.seq = .running 0x11 (.fail .badCmd 0x11) [] :=
  ⟨0x00000111, State.reset, _, 1, rfl, rfl, rfl⟩

end Sys2Proof.Tests
end

section
/-! PROOFS. The register map and the words the host reads (spec/10_state.md R23, R39, R41 to R47), and the statements about them. -/

namespace Sys2Proof.Machine

open Sys2Proof

/-! ### Offsets (R41) -/

theorem offset_freq_toNat (v : Fin 256) : (Reg.freq v).offset.toNat = 0x0400 + 4 * v.val := by simp [Reg.offset]; omega
theorem offset_heap_toNat (i : Fin 256) : (Reg.heap i).offset.toNat = 0x0800 + 4 * i.val := by simp [Reg.offset]; omega
theorem offset_nodeLink_toNat (j : Fin 255) : (Reg.nodeLink j).offset.toNat = 0x0C00 + 4 * j.val := by simp [Reg.offset]; omega
theorem offset_nodeFreq_toNat (j : Fin 255) : (Reg.nodeFreq j).offset.toNat = 0x1000 + 4 * j.val := by simp [Reg.offset]; omega
theorem offset_codeLen_toNat (v : Fin 256) : (Reg.codeLen v).offset.toNat = 0x1400 + 4 * v.val := by simp [Reg.offset]; omega
theorem offset_codeBits_toNat (v : Fin 256) (w : Fin 8) :
    (Reg.codeBits v w).offset.toNat = 0x2000 + 32 * v.val + 4 * w.val := by simp [Reg.offset]; omega

/-- Every register is found at its own offset: the ranges of `regAt` are disjoint. -/
theorem regAt_offset (r : Reg) : regAt r.offset = some r := by
  cases r with
  | freq v => simp (disch := omega) [regAt, offset_freq_toNat, if_pos]
  | heap i => simp (disch := omega) [regAt, offset_heap_toNat, if_pos, if_neg]
  | nodeLink j => simp (disch := omega) [regAt, offset_nodeLink_toNat, if_pos, if_neg, nodeLinkReg]
  | nodeFreq j => simp (disch := omega) [regAt, offset_nodeFreq_toNat, if_pos, if_neg, nodeFreqReg]
  | codeLen v => simp (disch := omega) [regAt, offset_codeLen_toNat, if_pos, if_neg]
  | codeBits v w =>
    simp (disch := omega) only [regAt, offset_codeBits_toNat, if_neg]
    simp [Fin.ext_iff]
    omega
  | _ => rfl

theorem singleReg_offset {k : Nat} {r : Reg} (h : singleReg k = some r) : r.offset.toNat = 4 * k := by
  unfold singleReg at h
  split at h <;> cases h <;> rfl

theorem nodeLinkReg_offset {k : Nat} {r : Reg} (h : nodeLinkReg k = some r) : r.offset.toNat = 0x0C00 + 4 * k := by
  unfold nodeLinkReg at h
  split at h <;> cases h
  exact offset_nodeLink_toNat _

theorem nodeFreqReg_offset {k : Nat} {r : Reg} (h : nodeFreqReg k = some r) : r.offset.toNat = 0x1000 + 4 * k := by
  unfold nodeFreqReg at h
  split at h <;> cases h
  exact offset_nodeFreq_toNat _

/-- A register is found at its own offset only: one case for each range of the map. -/
theorem offset_of_regAt {a : Offset} {r : Reg} (h : regAt a = some r) : r.offset = a := by
  apply BitVec.eq_of_toNat_eq
  have ha : a.toNat < 0x4000 := a.isLt
  simp only [regAt] at h
  split at h
  · cases h
  split at h
  · have := singleReg_offset h; omega
  split at h
  · cases h; rw [offset_freq_toNat]; simp; omega
  split at h
  · cases h; rw [offset_heap_toNat]; simp; omega
  split at h
  · have := nodeLinkReg_offset h; omega
  split at h
  · have := nodeFreqReg_offset h; omega
  split at h
  · cases h; rw [offset_codeLen_toNat]; simp; omega
  split at h
  · cases h
  · cases h; rw [offset_codeBits_toNat]; simp; omega

/-! ### Fields of a word -/

theorem getElem_bitAt {j : Nat} (hj : j < 32) (i : Nat) (b : Bool) : (bitAt i b)[j] = (decide (j = i) && b) := by
  cases b <;> simp [bitAt]

/-- A status bit is 0 in every field that does not hold it. -/
theorem extractLsb'_bitAt {i p m : Nat} (b : Bool) (h : i < p ∨ p + m ≤ i) : (bitAt i b).extractLsb' p m = 0 := by
  ext k hk
  cases b <;> simp [bitAt]
  omega

theorem extractLsb'_field_same {w q : Nat} (x : BitVec w) (h : q + w ≤ 32) : ((x.setWidth 32) <<< q).extractLsb' q w = x := by
  ext i hi
  have : q + i < 32 := by omega
  simp [BitVec.getLsbD_eq_getElem hi, this]

theorem extractLsb'_field_disjoint {w q p m : Nat} (x : BitVec w) (h : q + w ≤ p ∨ p + m ≤ q) :
    ((x.setWidth 32) <<< q).extractLsb' p m = 0 := by
  ext i hi
  simp
  intro _ _ _
  exact BitVec.getLsbD_of_ge _ _ (by omega)

theorem extractLsb'_low_same {w : Nat} (x : BitVec w) (h : w ≤ 32) : (x.setWidth 32).extractLsb' 0 w = x := by
  simpa using extractLsb'_field_same x (q := 0) (by omega)

theorem extractLsb'_low_disjoint {w p m : Nat} (x : BitVec w) (h : w ≤ p) : (x.setWidth 32).extractLsb' p m = 0 := by
  simpa using extractLsb'_field_disjoint x (q := 0) (p := p) (m := m) (by omega)

theorem errWord_fields (e : ErrRecord) :
    e.word.extractLsb' 0 8 = e.code ∧ e.word.extractLsb' 8 8 = e.opcode ∧ e.word.extractLsb' 16 8 = e.info ∧
      e.word.extractLsb' 24 3 = e.cls ∧ e.word.extractLsb' 27 5 = 0 := by
  simp (disch := omega) [ErrRecord.word, BitVec.extractLsb'_or, extractLsb'_field_same, extractLsb'_field_disjoint,
    extractLsb'_low_same, extractLsb'_low_disjoint]

theorem packStateWord_fields (s : State) :
    s.packStateWord.extractLsb' 0 8 = s.acc ∧ s.packStateWord.extractLsb' 8 3 = s.accN ∧ s.packStateWord.extractLsb' 11 21 = 0 := by
  simp (disch := omega) [State.packStateWord, BitVec.extractLsb'_or, extractLsb'_field_same, extractLsb'_field_disjoint,
    extractLsb'_low_same, extractLsb'_low_disjoint]

theorem linkWord_valid (nd : Node) : nd.linkWord.getLsbD 31 = nd.valid := by simp [Node.linkWord, getElem_bitAt]

theorem linkWord_fields (nd : Node) :
    nd.linkWord.extractLsb' 0 9 = nd.left ∧ nd.linkWord.extractLsb' 9 7 = 0 ∧ nd.linkWord.extractLsb' 16 9 = nd.right ∧
      nd.linkWord.extractLsb' 25 6 = 0 := by
  simp (disch := omega) [Node.linkWord, BitVec.extractLsb'_or, extractLsb'_field_same, extractLsb'_field_disjoint,
    extractLsb'_low_same, extractLsb'_low_disjoint, extractLsb'_bitAt]

/-- The seven status bits, each at its place. -/
theorem statusWord_bits (s : State) :
    s.statusWord[0] = s.busy ∧ s.statusWord[1] = s.done ∧ s.statusWord[2] = s.errSet ∧ s.statusWord[3] = s.rej ∧
      s.statusWord[4] = s.treeValid ∧ s.statusWord[5] = s.emptyArt ∧ s.statusWord[6] = s.midwalk := by
  simp [State.statusWord, getElem_bitAt]

theorem statusWord_above (s : State) : s.statusWord.extractLsb' 7 25 = 0 := by
  simp (disch := omega) [State.statusWord, BitVec.extractLsb'_or, extractLsb'_bitAt]

theorem errSet_eq_decide (s : State) : s.errSet = decide (s.err.code ≠ 0) := Bool.eq_iff_iff.2 (by simp [State.errSet])

theorem treeValid_eq_decide (s : State) : s.treeValid = decide (s.root ≠ 511) :=
  Bool.eq_iff_iff.2 (by simp [State.treeValid, Config.nil])

/-! ### The statements -/

/-- Settles O46. -/
theorem registerMapRoundTrip : Obligations.RegisterMapRoundTrip :=
  ⟨rfl, fun v => ⟨offset_freq_toNat v, offset_heap_toNat v, offset_codeLen_toNat v⟩,
    fun j => ⟨offset_nodeLink_toNat j, offset_nodeFreq_toNat j⟩, offset_codeBits_toNat, regAt_offset, fun _ _ => offset_of_regAt⟩

/-- Settles O50: the ERR and TREE_VALID bits are computed from ERR.CODE and ROOT (R25, R26). -/
theorem statusWordFields : Obligations.StatusWordFields := by
  intro s
  obtain ⟨hbusy, hdone, herr, hrej, htree, hempty, hmid⟩ := statusWord_bits s
  exact ⟨hbusy, hdone, herr.trans (errSet_eq_decide s), hrej, htree.trans (treeValid_eq_decide s), hempty, hmid, statusWord_above s, State.busy_eq_true_iff⟩

/-- Settles O51. -/
theorem windowFields : Obligations.WindowFields := by
  intro s j v w
  obtain ⟨hcode, hop, hinfo, hcls, herr0⟩ := errWord_fields s.err
  obtain ⟨hacc, haccN, hpack0⟩ := packStateWord_fields s
  obtain ⟨hleft, hleft0, hright, hright0⟩ := linkWord_fields (s.node.get j)
  have low := fun n : Idx => extractLsb'_low_same n (by decide)
  have above := fun n : Idx => extractLsb'_low_disjoint n (p := 9) (m := 23) (by decide)
  exact ⟨rfl, rfl, rfl, rfl, rfl, rfl, low _, above _, low _, above _, low _, above _, low _, above _, rfl, low _, above _,
    hcode, hop, hinfo, hcls, herr0, hacc, haccN, hpack0, low _, above _, hleft, hleft0, hright, hright0, linkWord_valid _, rfl,
    extractLsb'_low_same _ (by decide), extractLsb'_low_disjoint _ (by decide), rfl⟩

/-- Settles O54: the step is the host's write, the write is the offer of the word, and the word decodes to i. -/
theorem stepRunsDecodedCommand : Obligations.StepRunsDecodedCommand := by
  have onWrite : ∀ (s : State) (w : Word) (i : Instr) (rest : List HostAction), s.inReset = false →
      s.host = .write 0x0008 w :: rest → decode w = .command i → step s = exec i { s with host := rest } := by
    intro s w i rest hr hh hd
    calc step s = hostAct (.write 0x0008 w) { s with host := rest } := step_action hh
      _ = memWrite 0x0008 w { s with host := rest } := hostAct_released (by exact hr) _
      _ = writeCmd w { s with host := rest } := memWrite_cmd w _
      _ = exec i { s with host := rest } := writeCmd_command hd _
  refine ⟨onWrite, fun s i => ?_⟩
  rw [withFetchWord_host]
  exact onWrite _ _ i s.host rfl rfl (by cases i <;> rfl)

/-- Settles O1: every table is filled with its reset value, every other element is written out in State.reset. -/
theorem resetLeavesSpecifiedValues : Obligations.ResetLeavesSpecifiedValues :=
  ⟨rfl, rfl, rfl, rfl, rfl, rfl, rfl, rfl, rfl, rfl, Table.get_fill _, rfl, rfl, Table.get_fill _, rfl, rfl, Table.get_fill _, rfl,
    Table.get_fill _, Table.get_fill _, rfl, rfl, rfl, rfl, rfl, rfl, rfl⟩

end Sys2Proof.Machine
end

section
/-! PROOFS. How the body of a command ends or pauses, and what a command leaves (spec/40_control.md R92, R93, R97; 60_exceptions.md R150;
70_reset_and_hazards.md R177). -/

namespace Sys2Proof.Machine

open Sys2Proof

/-! ### How a body ends -/

/-- A body ends or pauses in a state with P, a pause at a position with W and no stage of its own after it; a reset is SOFT_RESET's, of a state
with P. -/
def Run.Ends (P : State → Prop) (W : Pos → Prop) : Run → Prop
  | .ret s => P s
  | .raised _ _ s => P s
  | .reset s => ∃ u, P u ∧ s = u.softReset
  | .wait pos todo s => todo = [] ∧ W pos ∧ P s
  | .stuck _ => True

section ends
variable {P Q : State → Prop} {V W : Pos → Prop}

theorem Run.Ends.imp {r : Run} (h : r.Ends P W) (hPQ : ∀ s, P s → Q s) : r.Ends Q W := by
  cases r with
  | ret s => exact hPQ s h
  | raised e info s => exact hPQ s h
  | reset s => obtain ⟨u, hu, rfl⟩ := h; exact ⟨u, hPQ u hu, rfl⟩
  | wait pos todo s => exact ⟨h.1, h.2.1, hPQ s h.2.2⟩
  | stuck f => trivial

theorem Run.Ends.imp_pos {r : Run} (h : r.Ends P V) (hVW : ∀ p, V p → W p) : r.Ends P W := by
  cases r with
  | wait pos todo s => exact ⟨h.1, hVW pos h.2.1, h.2.2⟩
  | _ => exact h

theorem ends_ofExcept {x : Except Fault State} (h : ∀ t, x = .ok t → P t) : (Run.ofExcept x).Ends P W := by
  cases x with
  | ok t => exact h t rfl
  | error f => trivial

/-- An iteration of a loop goes on in a state with J and leaves `ts` in IN, or ends the loop as P and W allow. -/
def LoopStep.GoesOn {σ : Type} (J : σ → State → Prop) (P : State → Prop) (W : Pos → Prop) (ts : List Token) : LoopStep σ → Prop
  | .more x s => s.inq = ts ∧ J x s
  | .stop r => r.Ends P W

/-- An iteration that keeps one predicate, whether the loop goes on or not. -/
abbrev LoopStep.Keeps {σ : Type} (P : State → Prop) : (Pos → Prop) → List Token → LoopStep σ → Prop := LoopStep.GoesOn (fun _ => P) P

theorem LoopStep.Keeps.imp {σ : Type} {ts : List Token} {x : LoopStep σ} (h : x.Keeps P W ts) (hPQ : ∀ s, P s → Q s) :
    x.Keeps Q W ts := by
  cases x with
  | more y s => exact ⟨h.1, hPQ s h.2⟩
  | stop r => exact Run.Ends.imp h hPQ

theorem LoopStep.GoesOn.of_inq {σ : Type} {J : σ → State → Prop} {ts us : List Token} {x : LoopStep σ} (h : x.GoesOn J P W ts)
    (e : ts = us) : x.GoesOn J P W us := e ▸ h

/-- A token loop ends in P when every iteration keeps J, which gives P wherever the loop waits. -/
theorem ends_overTokens {σ : Type} {pos : σ → Pos} {body : σ → Token → State → LoopStep σ} {J : σ → State → Prop} (hpos : ∀ x, W (pos x))
    (hwait : ∀ x s, J x s → P s) (hbody : ∀ x t ts s, J x s → (body x t (s.consume t ts)).GoesOn J P W ts) (x : σ) {s : State}
    (hs : J x s) : (overTokens pos body s.inq x s).Ends P W := by
  refine overTokens_induct (P := J) (Q := fun r => r.Ends P W) (fun x s h => ⟨rfl, hpos x, hwait x s h⟩)
    (fun x s t ts h _ _ x' s' hb => ?_) (fun x s t ts h _ _ r hb => ?_) s.inq x s rfl hs
  · have := hbody x t ts s h
    rwa [hb] at this
  · have := hbody x t ts s h
    rwa [hb] at this

end ends

/-! ### What a command leaves -/

/-- What the command with opcode op and the stages `plan` leaves, when each of its bodies ends or pauses in a state with P: it has completed or
raised, or it is held before that, or it waits in one of its stages; or SOFT_RESET has reset the block. -/
inductive Leaves (P : State → Prop) (op : Byte) (plan : List Stage) : State → Prop
  | completed (s : State) : P s → Leaves P op plan s.complete
  | beforeEnd (s : State) : P s → Leaves P op plan { s with seq := .running op .leave [] }
  | raised (e : ErrorKind) (info : Byte) (s : State) : P s → Leaves P op plan (s.raiseError op e info)
  | beforeRaise (e : ErrorKind) (info : Byte) (s : State) : P s → Leaves P op plan { s with seq := .running op (.fail e info) [] }
  | waiting (pre : List Stage) (c : Stage) (todo : List Stage) (pos : Pos) (s : State) : plan = pre ++ c :: todo → pos.inStage c → P s →
      Leaves P op plan { s with seq := .running op pos todo }
  | reset (s : State) : P s → Leaves P op plan s.softReset

section leaves
variable {P : State → Prop} {op : Byte} {plan : List Stage} (htick : ∀ s, P s → P s.tick)
include htick

theorem leaves_of_ret {s t : State} (hs : P s) (ht : settle op (.ret s) = .next t) : Leaves P op plan t := by
  rw [settle_ret] at ht
  obtain rfl := Host.Outcome.next.inj ht
  split
  · exact .beforeEnd s hs
  · exact .completed s.tick (htick s hs)

theorem leaves_of_raised {e : ErrorKind} {info : Byte} {s t : State} (hs : P s) (ht : settle op (.raised e info s) = .next t) :
    Leaves P op plan t := by
  rw [settle_raised] at ht
  obtain rfl := Host.Outcome.next.inj ht
  split
  · exact .beforeRaise e info s hs
  · exact .raised e info s.tick (htick s hs)

/-- Induction over the stages still to run, once: a command whose bodies keep P leaves a state as `Leaves` says. -/
theorem leaves_of_chain (hbody : ∀ d s, P s → (stageBody d s).Ends P (Pos.inStage · d)) (todo : List Stage) {pre : List Stage}
    {c : Stage} (hp : plan = pre ++ c :: todo) {r : Run} (hr : r.Ends P (Pos.inStage · c)) {t : State}
    (ht : settle op (r.chain todo) = .next t) : Leaves P op plan t := by
  cases r with
  | ret s =>
    cases todo with
    | nil => exact leaves_of_ret htick hr ht
    | cons d todo =>
      have hp' : plan = (pre ++ [c]) ++ d :: todo := by simpa using hp
      rw [Run.chain_cons, Run.andThen_ret] at ht
      split at ht
      · rw [Run.chain_wait, settle_wait] at ht
        obtain rfl := Host.Outcome.next.inj ht
        exact .waiting _ d todo (.enter d) s hp' rfl hr
      · exact leaves_of_chain hbody todo hp' (hbody d s.tick (htick s hr)) ht
  | raised e info s => exact leaves_of_raised htick hr (by rwa [Run.chain_raised] at ht)
  | reset s =>
    rw [Run.chain_reset, settle_reset] at ht
    obtain rfl := Host.Outcome.next.inj ht
    obtain ⟨u, hu, rfl⟩ := hr
    exact .reset u hu
  | wait pos todo' s =>
    obtain ⟨rfl, hpos, hs⟩ := hr
    rw [Run.chain_wait, settle_wait] at ht
    obtain rfl := Host.Outcome.next.inj ht
    exact .waiting pre c todo pos s hp hpos hs
  | stuck f =>
    rw [Run.chain_stuck, settle_stuck] at ht
    cases ht

end leaves

/-! ### Offering a word -/

/-- Every command but SOFT_RESET and CLEAR_ERR is offered in the same way, with the stages of its plan (R91, R97). -/
theorem exec_command {i : Instr} (hr : i ≠ .softReset) (hc : i ≠ .clearErr) (s : State) : ∃ c todo, Instr.plan i = c :: todo ∧
    exec i s = command (opcodeOf i) c todo (fun u => (stageBody c u).chain todo) s := by
  cases i with
  | softReset => exact absurd rfl hr
  | clearErr => exact absurd rfl hc
  | _ => exact ⟨_, _, rfl, rfl⟩

theorem exec_softReset (s : State) : exec .softReset s =
    if s.busy then .next s.softReset else launch 0x01 .softReset [] (fun u => (stageBody .softReset u).chain []) s := rfl

theorem exec_clearErr (s : State) : exec .clearErr s =
    if s.busy then .next s.reject else launch 0x02 .clearErr [] (fun u => (stageBody .clearErr u).chain []) s := rfl

theorem offerIllegal_command (w : Word) (s : State) : offerIllegal w s = command (opcodeField w) (.illegal (opcodeField w)) []
    (fun u => (stageBody (.illegal (opcodeField w)) u).chain []) s := rfl

end Sys2Proof.Machine
end

section
/-! PROOFS. The frames of the bodies that read and write the streams or the codes, and the invariants these keep (spec/10_state.md R34, R35, R37,
R49; 41_frequency.md R103; 44_code_table.md R119; 45_tree_codec.md R123; 46_bit_packer.md R131; 47_bit_unpacker.md R134). -/

namespace Sys2Proof.Machine

open Sys2Proof

/-! ### What the bodies leave alone: the state less the elements a body writes -/

/-- The state less IN, OUT, their counts, the queue of answers and the pace. -/
def State.lessPorts (s : State) : State := { s with inq := [], out := [], sink := [], inCount := 0, outCount := 0, pace := none }

/-- The state less the ports and what FREQ_COUNT writes (R103). -/
def State.lessCounts (s : State) : State := { s.lessPorts with freq := .fill 256 0, total := 0, nsym := 0 }

/-- The state less what CODES_DERIVE writes (R119). -/
def State.lessCodes (s : State) : State := { s with codeLen := .fill 256 0, codeBits := .fill 256 0, stack := [] }

/-- The state less the ports and what TREE_SERIALIZE writes (R123). -/
def State.lessStack (s : State) : State := { s.lessPorts with stack := [] }

/-- The state less the ports and what PACK writes (R130). -/
def State.lessAcc (s : State) : State := { s.lessPorts with acc := 0, accN := 0 }

/-- The state less the ports and what UNPACK writes (R134). -/
def State.lessWalk (s : State) : State := { s.lessPorts with cur := 0, midwalk := false }

/-- The state less the ports and what ParseHeader writes (R125). -/
def State.lessParse (s : State) : State :=
  { s.lessPorts with node := .fill 255 .clear, nextInt := 0, root := 0, stack := [], emptyArt := false }

/-- The state less what the heap and tree commands write (R111, R113, R115). -/
def State.lessTree (s : State) : State :=
  { s with node := .fill 255 .clear, nextInt := 0, root := 0, heap := .fill 256 0, heapSize := 0, draws := 0 }

/-! The elements that the invariants and the tree invariant speak of, by group. -/

def State.countPart (s : State) : Table Word 256 × Word × BitVec 9 := (s.freq, s.total, s.nsym)
def State.heapPart (s : State) : Table Idx 256 × BitVec 9 := (s.heap, s.heapSize)
def State.accPart (s : State) : Byte × BitVec 3 := (s.acc, s.accN)
def State.codePart (s : State) : Table Byte 256 × Table Code 256 := (s.codeLen, s.codeBits)
def State.controlPart (s : State) : Bool × Bool × ErrRecord := (s.done, s.inReset, s.err)
def State.treePart (s : State) : Table Node 255 × Idx × Idx × Table Idx 256 × BitVec 9 := (s.node, s.nextInt, s.root, s.heap, s.heapSize)

@[simp] theorem lessCounts_consume (s : State) (t : Token) (ts : List Token) : (s.consume t ts).lessCounts = s.lessCounts := by
  cases t <;> rfl
@[simp] theorem lessAcc_consume (s : State) (t : Token) (ts : List Token) : (s.consume t ts).lessAcc = s.lessAcc := by cases t <;> rfl
@[simp] theorem lessWalk_consume (s : State) (t : Token) (ts : List Token) : (s.consume t ts).lessWalk = s.lessWalk := by cases t <;> rfl
@[simp] theorem lessParse_consume (s : State) (t : Token) (ts : List Token) : (s.consume t ts).lessParse = s.lessParse := by
  cases t <;> rfl

theorem lessAcc_of_lessPorts {s t : State} (h : t.lessPorts = s.lessPorts) : t.lessAcc = s.lessAcc := by simp only [State.lessAcc, h]
theorem lessWalk_of_lessPorts {s t : State} (h : t.lessPorts = s.lessPorts) : t.lessWalk = s.lessWalk := by simp only [State.lessWalk, h]
theorem lessStack_of_lessPorts {s t : State} (h : t.lessPorts = s.lessPorts) : t.lessStack = s.lessStack := by
  simp only [State.lessStack, h]

/-- The sink's answer to an offer is one of the ports. -/
theorem lessPorts_emit {s t : State} {b : Byte} (h : s.emit b = .accepted t ∨ s.emit b = .failed t) :
    t.lessPorts = s.lessPorts ∧ t.inq = s.inq := by
  rcases h with h | h
  · obtain ⟨-, rest, -, rfl⟩ := State.emit_accepted.1 h
    exact ⟨rfl, rfl⟩
  · obtain ⟨-, rest, -, rfl⟩ := State.emit_failed.1 h
    exact ⟨rfl, rfl⟩

/-! ### FREQ_COUNT (R49, R103) -/

theorem State.CountsAgree.congr {s t : State} (h : s.CountsAgree) (hp : t.countPart = s.countPart) : t.CountsAgree := by
  obtain ⟨hf, ht, hn⟩ : t.freq = s.freq ∧ t.total = s.total ∧ t.nsym = s.nsym := by simpa [State.countPart] using hp
  unfold State.CountsAgree at *
  rwa [hf, ht, hn]

theorem countsAgree_of_cleared {s : State} (hf : s.freq = .fill 256 0) (ht : s.total = 0) (hn : s.nsym = 0) : s.CountsAgree := by
  unfold State.CountsAgree
  rw [hf, ht, hn]
  exact ⟨by simp only [Table.fill, List.map_replicate, List.sum_replicate]; rfl, by simp only [Table.fill, List.filter_replicate]; rfl⟩

theorem sum_map_set {α : Type} (f : α → Nat) (l : List α) {i : Nat} (h : i < l.length) (a : α) :
    ((l.set i a).map f).sum + f l[i] = (l.map f).sum + f a := by
  induction l generalizing i with
  | nil => cases h
  | cons b l ih =>
    cases i with
    | zero => simp only [List.set_cons_zero, List.map_cons, List.sum_cons, List.getElem_cons_zero]; omega
    | succ i =>
      have := ih (i := i) (by simpa using h)
      simp only [List.set_cons_succ, List.map_cons, List.sum_cons, List.getElem_cons_succ]
      omega

/-- A count is at most TOTAL. -/
theorem State.CountsAgree.freqOf_le {s : State} (h : s.CountsAgree) (b : Byte) : (s.freqOf b).toNat ≤ s.total.toNat := by
  rw [h.1]
  exact List.single_le_sum (by simp) _ (List.mem_map.2 ⟨_, List.getElem_mem _, rfl⟩)

/-- NSYM is at most 256, and at most 255 while a symbol is uncounted. -/
theorem State.CountsAgree.nsym_lt {s : State} (h : s.CountsAgree) {b : Byte} (hb : s.freqOf b = 0) : s.nsym.toNat < 256 := by
  rw [h.2]
  refine (List.length_filter_lt_length_iff_exists.2 ⟨s.freqOf b, List.getElem_mem _, by simp [hb]⟩).trans_eq s.freq.size

theorem toNat_add_one {w : Nat} {x : BitVec w} (h : x.toNat + 1 < 2 ^ w) : (x + 1).toNat = x.toNat + 1 := by
  have h1 : 1 < 2 ^ w := by omega
  simp [BitVec.toNat_add, Nat.mod_eq_of_lt h1, Nat.mod_eq_of_lt h]

theorem total_add_one {s : State} (hmax : s.total ≠ Config.totalMax) : (s.total + 1).toNat = s.total.toNat + 1 := by
  have : s.total.toNat ≠ 2 ^ 32 - 1 := fun e => hmax (BitVec.eq_of_toNat_eq e)
  have := s.total.isLt
  exact toNat_add_one (by omega)

/-- Below TOTAL_MAX no count overflows. -/
theorem State.CountsAgree.freqOf_add_one {s : State} (h : s.CountsAgree) (b : Byte) (hmax : s.total ≠ Config.totalMax) :
    (s.freqOf b + 1).toNat = (s.freqOf b).toNat + 1 := by
  have := h.freqOf_le b
  have := total_add_one hmax
  have := (s.total + 1).isLt
  exact toNat_add_one (by omega)

section countByte
variable {s : State} (h : s.CountsAgree) (b : Byte) (hmax : s.total ≠ Config.totalMax)
include h hmax

theorem countByte_total_eq_sum : (s.countByte b).total.toNat = ((s.countByte b).freq.cells.map BitVec.toNat).sum := by
  have hlen : (symIndex b).val < s.freq.cells.length := by rw [s.freq.size]; exact (symIndex b).isLt
  have hsum := sum_map_set BitVec.toNat s.freq.cells hlen (s.freqOf b + 1)
  rw [show s.freq.cells[(symIndex b).val] = s.freqOf b from rfl, h.freqOf_add_one b hmax, ← h.1] at hsum
  show (s.total + 1).toNat = ((s.freq.cells.set (symIndex b).val (s.freqOf b + 1)).map BitVec.toNat).sum
  rw [total_add_one hmax]
  omega

theorem countByte_nsym_eq_count : (s.countByte b).nsym.toNat = ((s.countByte b).freq.cells.filter (· != 0)).length := by
  have hlen : (symIndex b).val < s.freq.cells.length := by rw [s.freq.size]; exact (symIndex b).isLt
  have hf : s.freq.cells[(symIndex b).val] = s.freqOf b := rfl
  have hne : (s.freqOf b + 1 != 0) = true := by
    have hinc := h.freqOf_add_one b hmax
    simpa using fun e : s.freqOf b + 1 = 0 => by rw [e] at hinc; cases hinc
  have hcount := List.countP_set (p := (· != (0 : Word))) (a := s.freqOf b + 1) hlen
  rw [hf, List.countP_eq_length_filter, List.countP_eq_length_filter, ← h.2, if_pos hne] at hcount
  show (if s.freqOf b = 0 then s.nsym + 1 else s.nsym).toNat =
    ((s.freq.cells.set (symIndex b).val (s.freqOf b + 1)).filter (· != 0)).length
  rw [hcount]
  by_cases h0 : s.freqOf b = 0
  · have := h.nsym_lt h0
    rw [if_pos h0, if_neg (by simp [h0]), toNat_add_one (by omega)]
    omega
  · have : 0 < s.nsym.toNat := by
      rw [h.2]
      exact List.length_pos_of_mem (List.mem_filter.2 ⟨List.getElem_mem hlen, by simpa [hf] using h0⟩)
    rw [if_neg h0, if_pos (by simpa using h0)]
    omega

/-- Counting a byte below TOTAL_MAX: the count of the byte and TOTAL grow by one, NSYM where the count was 0. -/
theorem State.CountsAgree.countByte : (s.countByte b).CountsAgree := ⟨countByte_total_eq_sum h b hmax, countByte_nsym_eq_count h b hmax⟩

end countByte

theorem countLoop_ends (s : State) : (countLoop s).Ends
    (fun t => t.lessCounts = s.lessCounts ∧ (s.CountsAgree → t.CountsAgree)) (Pos.inStage · .freqCount) := by
  refine ends_overTokens (pos := fun _ => .count) (J := fun _ t => t.lessCounts = s.lessCounts ∧ (s.CountsAgree → t.CountsAgree))
    (W := (Pos.inStage · .freqCount)) (fun _ => rfl) (fun _ _ h => h) (fun _ tok ts u hu => ?_) () ⟨rfl, id⟩
  have hc : (u.consume tok ts).lessCounts = s.lessCounts ∧ (s.CountsAgree → (u.consume tok ts).CountsAgree) :=
    ⟨by simp [hu.1], fun h => (hu.2 h).congr (by simp [State.countPart])⟩
  cases tok with
  | fail => exact hc
  | endOfPass => exact hc
  | byte b =>
    simp only [countToken]
    split
    · exact hc
    next hmax => exact ⟨rfl, hc.1, fun h => (hc.2 h).countByte b hmax⟩

/-! ### PACK (R131) -/

theorem State.AccBounded.congr {s t : State} (h : s.AccBounded) (hp : t.accPart = s.accPart) : t.AccBounded := by
  obtain ⟨ha, hn⟩ : t.acc = s.acc ∧ t.accN = s.accN := by simpa [State.accPart] using hp
  unfold State.AccBounded at *
  rwa [ha, hn]

theorem accBounded_of_zero {s : State} (ha : s.acc = 0) (hn : s.accN = 0) : s.AccBounded := by
  simp [State.AccBounded, ha, hn]

/-- PACK's bodies keep everything but the ports, ACC and ACC_N, and ACC below 2^ACC_N. -/
def PackKeeps (s t : State) : Prop := t.lessAcc = s.lessAcc ∧ t.AccBounded

theorem PackKeeps.refl {s : State} (h : s.AccBounded) : PackKeeps s s := ⟨rfl, h⟩

theorem PackKeeps.trans {s t u : State} (h : PackKeeps s t) (k : PackKeeps t u) : PackKeeps s u := ⟨k.1.trans h.1, k.2⟩

theorem packKeeps_emit {s t : State} {b : Byte} (ha : s.AccBounded) (h : s.emit b = .accepted t ∨ s.emit b = .failed t) :
    PackKeeps s t := by
  obtain ⟨hl, -⟩ := lessPorts_emit h
  exact ⟨lessAcc_of_lessPorts hl, ha.congr (congrArg State.accPart hl :)⟩

theorem packKeeps_emit_clearAcc {s t : State} {b : Byte} (h : s.emit b = .accepted t) : PackKeeps s t.clearAcc :=
  ⟨(show t.lessAcc = s.lessAcc from lessAcc_of_lessPorts (lessPorts_emit (.inl h)).1), accBounded_of_zero rfl rfl⟩

/-- Shifting one bit into ACC keeps it below 2^ACC_N. -/
theorem State.AccBounded.shift {s : State} (h : s.AccBounded) (x : Bool) (hn : s.accN ≠ 7) :
    State.AccBounded { s with acc := 2 * s.acc + bitByte x, accN := s.accN + 1 } := by
  have hn' : s.accN.toNat < 7 := by
    have : s.accN.toNat ≠ 7 := fun e => hn (BitVec.eq_of_toNat_eq e)
    have := s.accN.isLt
    omega
  have hpow : 2 ^ s.accN.toNat ≤ 2 ^ 6 := Nat.pow_le_pow_right (by decide) (by omega)
  have hb : (bitByte x).toNat ≤ 1 := by cases x <;> decide
  have ha : s.acc.toNat < 2 ^ s.accN.toNat := h
  have hacc : (2 * s.acc + bitByte x).toNat = 2 * s.acc.toNat + (bitByte x).toNat := by
    rw [BitVec.toNat_add, BitVec.toNat_mul]
    simp
    omega
  have hacn : (s.accN + 1).toNat = s.accN.toNat + 1 := by
    rw [BitVec.toNat_add]
    simp
    omega
  show (2 * s.acc + bitByte x).toNat < 2 ^ (s.accN + 1).toNat
  rw [hacc, hacn, Nat.pow_succ]
  omega

/-- PutBit, accepted or failed. -/
theorem packKeeps_putBit {s t : State} {x : Bool} (ha : s.AccBounded) (h : s.putBit x = .accepted t ∨ s.putBit x = .failed t) :
    PackKeeps s t ∧ t.inq = s.inq := by
  unfold State.putBit at h
  split at h
  · split at h
    next u hu =>
      obtain rfl : u.clearAcc = t := by simpa using h
      exact ⟨packKeeps_emit_clearAcc hu, (lessPorts_emit (.inl hu)).2⟩
    next u hu =>
      obtain rfl : u = t := by simpa using h
      exact ⟨packKeeps_emit ha (.inr hu), (lessPorts_emit (.inr hu)).2⟩
    next => simp at h
  next hn =>
    obtain rfl : _ = t := by simpa using h
    exact ⟨⟨rfl, ha.shift x hn⟩, rfl⟩

theorem putBits_keeps (b : Byte) (n : Nat) {s : State} (ha : s.AccBounded) :
    (putBits b n s).Keeps (PackKeeps s) (Pos.inStage · .pack) s.inq := by
  induction n generalizing s with
  | zero => exact ⟨rfl, .refl ha⟩
  | succ n ih =>
    simp only [putBits]
    split
    next t ht =>
      obtain ⟨hk, hq⟩ := packKeeps_putBit ha (.inl ht)
      exact ((ih hk.2).imp fun u hu => hk.trans hu).of_inq hq
    next t ht => exact (packKeeps_putBit ha (.inr ht)).1
    next => exact ⟨rfl, rfl, .refl ha⟩

theorem flushPartial_ends {s : State} (ha : s.AccBounded) : (flushPartial s).Ends (PackKeeps s) (Pos.inStage · .pack) := by
  unfold flushPartial
  split
  · exact PackKeeps.refl ha
  · split
    next t ht => exact packKeeps_emit_clearAcc ht
    next t ht => exact packKeeps_emit ha (.inr ht)
    next => exact ⟨rfl, rfl, .refl ha⟩

theorem packToken_keeps (tok : Token) (ts : List Token) {s : State} (ha : s.AccBounded) :
    (packToken () tok (s.consume tok ts)).Keeps (PackKeeps s) (Pos.inStage · .pack) ts := by
  have hc : PackKeeps s (s.consume tok ts) := ⟨by simp, ha.congr (by simp [State.accPart])⟩
  cases tok with
  | fail => exact hc
  | endOfPass => exact (flushPartial_ends hc.2).imp fun t ht => hc.trans ht
  | byte b =>
    simp only [packToken]
    split
    · exact hc
    · have := putBits_keeps b ((s.consume (.byte b) ts).codeLenOf b).toNat hc.2
      simp only [State.consume_inq] at this
      exact this.imp fun t ht => hc.trans ht

theorem packLoop_ends {s : State} (ha : s.AccBounded) : (packLoop s).Ends (PackKeeps s) (Pos.inStage · .pack) :=
  ends_overTokens (pos := fun _ => .packRead) (J := fun _ => PackKeeps s) (W := (Pos.inStage · .pack)) (fun _ => rfl) (fun _ _ h => h)
    (fun _ tok ts _ hu => LoopStep.Keeps.imp (packToken_keeps tok ts hu.2) fun _ ht => hu.trans ht) () (.refl ha)

theorem packFromBits_ends (b : Byte) (n : Nat) {s : State} (ha : s.AccBounded) :
    (packFromBits b n s).Ends (PackKeeps s) (Pos.inStage · .pack) := by
  have hk := putBits_keeps b n ha
  unfold packFromBits
  cases hb : putBits b n s with
  | more x t =>
    obtain ⟨-, ht⟩ : _ ∧ PackKeeps s t := by rwa [hb] at hk
    exact (packLoop_ends ht.2).imp fun _ hu => ht.trans hu
  | stop r => rwa [hb] at hk

theorem packBody_ends (s : State) : (packBody s).Ends (PackKeeps s) (Pos.inStage · .pack) :=
  (packLoop_ends (accBounded_of_zero rfl rfl)).imp fun _ ht => ⟨ht.1, ht.2⟩

/-! ### UNPACK (R134) -/

/-- UNPACK's bodies keep everything but the ports, CUR and MIDWALK. -/
def WalkKeeps (s t : State) : Prop := t.lessWalk = s.lessWalk

theorem walkKeeps_emitLeaf {s t : State} (h : s.emitLeaf = .accepted t ∨ s.emitLeaf = .failed t) : WalkKeeps s t ∧ t.inq = s.inq := by
  unfold State.emitLeaf at h
  split at h
  next u hu =>
    obtain rfl : { u with cur := s.root } = t := by simpa using h
    obtain ⟨hl, hq⟩ := lessPorts_emit (.inl hu)
    exact ⟨(show u.lessWalk = s.lessWalk from lessWalk_of_lessPorts hl), hq⟩
  next u hu =>
    obtain rfl : u = t := by simpa using h
    obtain ⟨hl, hq⟩ := lessPorts_emit (.inr hu)
    exact ⟨lessWalk_of_lessPorts hl, hq⟩
  next => simp at h

/-- The positions of UNPACK, in the command itself and in DECOMPRESS. -/
def Pos.inUnpack : Pos → Prop
  | .unpackRead | .unpackEmit _ _ => True
  | _ => False

theorem walkBits_keeps (b : Byte) (n : Nat) (s : State) : (walkBits b n s).Keeps (WalkKeeps s) Pos.inUnpack s.inq := by
  induction n generalizing s with
  | zero => exact ⟨rfl, rfl⟩
  | succ n ih =>
    simp only [walkBits]
    split
    · trivial
    next c hc =>
      split
      · split
        next t ht =>
          obtain ⟨hk, hq⟩ := walkKeeps_emitLeaf (.inl ht)
          exact ((ih t).imp fun u hu => hu.trans hk).of_inq hq
        next t ht => exact (walkKeeps_emitLeaf (.inr ht)).1
        next => exact ⟨rfl, trivial, rfl⟩
      · exact ih { s with cur := c }

theorem unpackToken_keeps (tok : Token) (ts : List Token) (s : State) :
    (unpackToken () tok (s.consume tok ts)).Keeps (WalkKeeps s) Pos.inUnpack ts := by
  have hc : WalkKeeps s (s.consume tok ts) := lessWalk_consume s tok ts
  cases tok with
  | fail => exact hc
  | endOfPass => exact hc
  | byte b => exact ((walkBits_keeps b 8 _).imp fun t ht => ht.trans hc).of_inq (by simp)

theorem unpackLoop_ends (s : State) : (unpackLoop s).Ends (WalkKeeps s) Pos.inUnpack :=
  ends_overTokens (pos := fun _ => .unpackRead) (J := fun _ => WalkKeeps s) (fun _ => trivial) (fun _ _ h => h)
    (fun _ tok ts u hu => LoopStep.Keeps.imp (unpackToken_keeps tok ts u) fun _ ht => ht.trans hu) () rfl

theorem unpackFromEmit_ends (b : Byte) (n : Nat) (s : State) : (unpackFromEmit b n s).Ends (WalkKeeps s) Pos.inUnpack := by
  unfold unpackFromEmit
  split
  next t ht =>
    have hk := (walkKeeps_emitLeaf (.inl ht)).1
    have hw := (walkBits_keeps b n t).imp fun _ hu => hu.trans hk
    cases hb : walkBits b n t with
    | more x u =>
      obtain ⟨-, hu⟩ : _ ∧ WalkKeeps s u := by rwa [hb] at hw
      exact (unpackLoop_ends u).imp fun _ hv => hv.trans hu
    | stop r => rwa [hb] at hw
  next t ht => exact (walkKeeps_emitLeaf (.inr ht)).1
  next => exact ⟨rfl, trivial, rfl⟩

theorem unpackBody_ends (s : State) : (unpackBody s).Ends (WalkKeeps s) Pos.inUnpack := by
  unfold unpackBody
  split
  · exact rfl
  · exact unpackLoop_ends { s with cur := s.root }

theorem unpackUnlessEmptyBody_ends (s : State) : (unpackUnlessEmptyBody s).Ends (WalkKeeps s) Pos.inUnpack := by
  unfold unpackUnlessEmptyBody
  split
  · exact rfl
  · exact unpackBody_ends s

/-! ### CODES_DERIVE (R34, R119) -/

theorem State.CodesAligned.congr {s t : State} (h : s.CodesAligned) (hp : t.codePart = s.codePart) : t.CodesAligned := by
  obtain ⟨hl, hb⟩ : t.codeLen = s.codeLen ∧ t.codeBits = s.codeBits := by simpa [State.codePart] using hp
  unfold State.CodesAligned State.codeLenOf State.codeBitsOf at *
  rwa [hl, hb]

theorem codesAligned_of_cleared {s : State} (hb : s.codeBits = .fill 256 0) : s.CodesAligned := fun v => by
  simp [State.codeBitsOf, hb]

theorem State.CodesAligned.setCode {s : State} (h : s.CodesAligned) (v : Byte) {len : Byte} {c : Code} (hc : c.toNat < 2 ^ len.toNat) :
    (s.setCode v len c).CodesAligned := fun u => by
  have hu := h u
  simp only [State.codeLenOf, State.codeBitsOf, State.setCode, Table.get_set] at *
  split
  · exact hc
  · exact hu

/-- What the walk of CODES_DERIVE keeps: the codes are aligned, so are those on the stack, and the stack holds at most 256 entries. -/
structure State.Deriving (s : State) : Prop where
  codes : s.CodesAligned
  entries : ∀ e ∈ s.stack, e.code.toNat < 2 ^ e.len.toNat
  bounded : s.StackBounded

/-- The code of a child is one bit longer than its parent's (R119). -/
theorem childCode_aligned {len : Byte} {c : Code} (h : c.toNat < 2 ^ len.toNat) (hl : len ≠ Config.maxCodeLen) :
    (2 * c).toNat < 2 ^ (len + 1).toNat ∧ (2 * c + 1).toNat < 2 ^ (len + 1).toNat := by
  have hlen : len.toNat + 1 < 2 ^ 8 := by
    have : len.toNat ≠ 255 := fun e => hl (BitVec.eq_of_toNat_eq e)
    have := len.isLt
    omega
  have hpow : 2 ^ (len.toNat + 1) ≤ 2 ^ 255 := Nat.pow_le_pow_right (by decide) (by omega)
  rw [toNat_add_one hlen, Nat.pow_succ]
  rw [Nat.pow_succ] at hpow
  have h2 : (2 * c).toNat = 2 * c.toNat := by
    rw [BitVec.toNat_mul]
    exact Nat.mod_eq_of_lt (by simp; omega)
  refine ⟨by omega, ?_⟩
  rw [toNat_add_one (by omega)]
  omega

theorem deriving_push {s t : State} {e : StackEntry} (h : s.Deriving) (he : e.code.toNat < 2 ^ e.len.toNat) (hp : s.push e = .ok t) :
    t.Deriving ∧ t.lessCodes = s.lessCodes := by
  obtain ⟨hlt, rfl⟩ := State.push_ok.1 hp
  exact ⟨⟨h.codes, List.forall_mem_cons.2 ⟨he, h.entries⟩, hlt⟩, rfl⟩

theorem deriving_visit {s t : State} {e : StackEntry} (h : s.Deriving) (he : e.code.toNat < 2 ^ e.len.toNat)
    (hv : s.deriveVisit e = .ok t) : t.Deriving ∧ t.lessCodes = s.lessCodes := by
  unfold State.deriveVisit at hv
  split at hv
  · obtain rfl := Except.ok.inj hv
    split
    · exact ⟨⟨h.codes.setCode _ he, h.entries, h.bounded⟩, rfl⟩
    · exact ⟨h, rfl⟩
  · split at hv
    · split at hv
      · cases hv
      next hl =>
        obtain ⟨hleft, hright⟩ := childCode_aligned he hl
        split at hv
        next u hu =>
          obtain ⟨hD, hk⟩ := deriving_push h hright hu
          obtain ⟨hD', hk'⟩ := deriving_push hD hleft hv
          exact ⟨hD', hk'.trans hk⟩
        · cases hv
    · cases hv
    · cases hv

theorem deriveLoop_keeps (visits : Nat) {s t : State} (h : s.Deriving) (hd : deriveLoop visits s = .ok t) :
    t.Deriving ∧ t.lessCodes = s.lessCodes := by
  induction visits generalizing s with
  | zero =>
    unfold deriveLoop at hd
    split at hd
    · cases hd; exact ⟨h, rfl⟩
    · cases hd
  | succ n ih =>
    unfold deriveLoop at hd
    split at hd
    · cases hd; exact ⟨h, rfl⟩
    next e rest hs =>
      have hstack : ∀ x ∈ e :: rest, x.code.toNat < 2 ^ x.len.toNat := hs ▸ h.entries
      obtain ⟨he, hrest⟩ := List.forall_mem_cons.1 hstack
      have hlen : (e :: rest).length ≤ 256 := hs ▸ h.bounded
      dsimp only at hd
      split at hd
      next u hu =>
        obtain ⟨hD, hk⟩ := deriving_visit (s := { s with stack := rest }) ⟨h.codes, hrest, Nat.le_of_succ_le hlen⟩ he hu
        obtain ⟨hD', hk'⟩ := ih hD hd
        exact ⟨hD', hk'.trans hk⟩
      · cases hd

theorem codesDeriveBody_ends (s : State) (W : Pos → Prop) :
    (codesDeriveBody s).Ends (fun t => t.CodesAligned ∧ t.StackBounded ∧ t.lessCodes = s.lessCodes) W := by
  refine ends_ofExcept fun t ht => ?_
  unfold State.deriveCodes at ht
  have hclear : State.CodesAligned { s with codeLen := .fill 256 0, codeBits := .fill 256 0, stack := [] } := codesAligned_of_cleared rfl
  dsimp only at ht
  split at ht
  · cases ht; exact ⟨hclear, Nat.zero_le _, rfl⟩
  · have hstart : State.Deriving
        { s with codeLen := .fill 256 0, codeBits := .fill 256 0, stack := [{ node := s.root }] } :=
      ⟨hclear, by simp, by simp [State.StackBounded]⟩
    obtain ⟨hD, hk⟩ := deriveLoop_keeps _ hstart ht
    exact ⟨hD.codes, hD.bounded, hk⟩

/-! ### TREE_SERIALIZE (R123) -/

/-- TREE_SERIALIZE's bodies keep everything but the ports and the stack, and a stack within 256 entries within them. -/
def SerialKeeps (s t : State) : Prop := t.lessStack = s.lessStack ∧ (s.StackBounded → t.StackBounded)

theorem SerialKeeps.refl (s : State) : SerialKeeps s s := ⟨rfl, id⟩

theorem SerialKeeps.trans {s t u : State} (h : SerialKeeps s t) (k : SerialKeeps t u) : SerialKeeps s u :=
  ⟨k.1.trans h.1, fun hs => k.2 (h.2 hs)⟩

theorem serialKeeps_pop {s : State} {e : StackEntry} {rest : List StackEntry} (hs : s.stack = e :: rest) :
    SerialKeeps s { s with stack := rest } := by
  refine ⟨rfl, fun h => ?_⟩
  have hlen : (e :: rest).length ≤ 256 := hs ▸ h
  exact Nat.le_of_succ_le hlen

theorem serialKeeps_push {s t : State} {e : StackEntry} (h : s.push e = .ok t) : SerialKeeps s t := by
  obtain ⟨hlt, rfl⟩ := State.push_ok.1 h
  exact ⟨rfl, fun _ => hlt⟩

theorem serialNext_keeps {s t : State} {p q : Option Idx} (hn : s.serialNext p = .ok (q, t)) : SerialKeeps s t := by
  unfold State.serialNext at hn
  split at hn
  · cases hn; exact .refl s
  · split at hn
    · cases hn; exact .refl s
    next e rest hs =>
      have hpop := serialKeeps_pop hs
      split at hn
      · cases hn; exact hpop
      · split at hn
        · split at hn
          next u hu =>
            split at hn
            next v hv => cases hn; exact (hpop.trans (serialKeeps_push hu)).trans (serialKeeps_push hv)
            · cases hn
          · cases hn
        · cases hn
        · cases hn

theorem serialKeeps_emit {s t : State} {b : Byte} (he : s.emit b = .accepted t ∨ s.emit b = .failed t) : SerialKeeps s t := by
  obtain ⟨hl, -⟩ := lessPorts_emit he
  have hs : t.stack = s.stack := (congrArg State.stack hl :)
  exact ⟨lessStack_of_lessPorts hl, fun h => by unfold State.StackBounded; rwa [hs]⟩

theorem serialLoop_ends (turns : Nat) (p : Option Idx) (s : State) :
    (serialLoop turns p s).Ends (SerialKeeps s) (Pos.inStage · .treeSerialize) := by
  induction turns generalizing p s with
  | zero =>
    unfold serialLoop
    split
    · exact SerialKeeps.refl s
    · trivial
  | succ n ih =>
    unfold serialLoop
    split
    · exact SerialKeeps.refl s
    · dsimp only
      split
      · exact ⟨rfl, rfl, .refl s⟩
      next t ht => exact serialKeeps_emit (.inr ht)
      next t ht =>
        split
        next q u hu => exact (ih q u).imp fun v hv => ((serialKeeps_emit (.inl ht)).trans (serialNext_keeps hu)).trans hv
        · trivial

theorem treeSerializeBody_ends (s : State) : (treeSerializeBody s).Ends (SerialKeeps s) (Pos.inStage · .treeSerialize) := by
  unfold treeSerializeBody
  split
  · exact SerialKeeps.refl s
  · have hstart : State.StackBounded { s with stack := [{ node := s.root }] } := by simp [State.StackBounded]
    exact (serialLoop_ends _ _ _).imp fun t ht => ⟨ht.1, fun _ => ht.2 hstart⟩

end Sys2Proof.Machine
end

section
/-! PROOFS. What the heap procedures and the tree builder do to the live heap entries, up to their order, and to the NIL tail (spec/10_state.md R33,
R51; 42_heap.md R107 to R112; 43_tree_builder.md R113 to R117). -/

namespace Sys2Proof.Machine

open Sys2Proof

/-! ### The live entries -/

theorem State.length_liveHeap {s : State} (h : s.live ≤ 256) : s.liveHeap.length = s.live := by
  simp [State.liveHeap, s.heap.size, h]

theorem State.heapAt_of_lt {s : State} {i : Nat} (h : i < 256) : s.heapAt i = s.heap.cells[i]'(by rw [s.heap.size]; exact h) := by
  simp [State.heapAt, h, Table.get]

theorem State.getElem_liveHeap {s : State} {i : Nat} (h : i < s.liveHeap.length) : s.liveHeap[i] = s.heapAt i := by
  have hi : i < 256 := by
    have := List.length_take_le' s.live s.heap.cells
    rw [s.heap.size] at this
    exact lt_of_lt_of_le h this
  simp [State.liveHeap, State.heapAt_of_lt hi]

theorem State.cells_setHeap (s : State) (i : Nat) (n : Idx) : (s.setHeap i n).heap.cells = s.heap.cells.set i n := by
  unfold State.setHeap
  split
  · rfl
  next h => exact (List.set_eq_of_length_le (by rw [s.heap.size]; omega)).symm

theorem State.liveHeap_setHeap (s : State) (i : Nat) (n : Idx) : (s.setHeap i n).liveHeap = s.liveHeap.set i n := by
  simp only [State.liveHeap, State.live_setHeap, State.cells_setHeap, List.take_set]

/-- A swap of live entries permutes them. -/
theorem State.liveHeap_swapHeap_perm {s : State} {i j : Nat} (hs : s.live ≤ 256) (hi : i < s.live) (hj : j < s.live) :
    (s.swapHeap i j).liveHeap.Perm s.liveHeap := by
  have hlen := State.length_liveHeap hs
  rw [State.swapHeap, State.liveHeap_setHeap, State.liveHeap_setHeap,
    ← State.getElem_liveHeap (by omega : j < s.liveHeap.length), ← State.getElem_liveHeap (by omega : i < s.liveHeap.length)]
  exact List.set_set_perm _ _

theorem State.HeapTailNil.congr {s t : State} (h : s.HeapTailNil) (hp : t.heapPart = s.heapPart) : t.HeapTailNil := by
  obtain ⟨hh, hz⟩ : t.heap = s.heap ∧ t.heapSize = s.heapSize := by simpa [State.heapPart] using hp
  unfold State.HeapTailNil State.live State.heapAt at *
  rwa [hh, hz]

theorem heapTailNil_of_empty {s : State} (hh : s.heap = .fill 256 Config.nil) (hz : s.heapSize = 0) : s.HeapTailNil := by
  refine ⟨by simp [State.live, hz], fun i _ => ?_⟩
  simp [State.heapAt, hh]

/-! ### Rearranging the live entries: SiftDown, SiftUp, Floyd's build -/

/-- t holds the live heap entries of s in some order; everything else but the heap is the same, and so is the heap beyond them. -/
structure Rearranged (s t : State) : Prop where
  only : HeapOnly s t
  live : t.live = s.live
  perm : t.liveHeap.Perm s.liveHeap
  beyond : ∀ k, s.live ≤ k → t.heapAt k = s.heapAt k

theorem Rearranged.refl (s : State) : Rearranged s s := ⟨.refl s, rfl, .refl _, fun _ _ => rfl⟩

theorem Rearranged.trans {s t u : State} (h : Rearranged s t) (k : Rearranged t u) : Rearranged s u :=
  ⟨h.only.trans k.only, k.live.trans h.live, k.perm.trans h.perm, fun n hn => (k.beyond n (h.live ▸ hn)).trans (h.beyond n hn)⟩

theorem Rearranged.tailNil {s t : State} (h : Rearranged s t) (hs : s.HeapTailNil) : t.HeapTailNil :=
  ⟨h.live ▸ hs.1, fun i hi => (h.beyond i (h.live ▸ hi)).trans (hs.2 i (h.live ▸ hi))⟩

theorem rearranged_swapHeap {s : State} {i j : Nat} (hs : s.live ≤ 256) (hi : i < s.live) (hj : j < s.live) :
    Rearranged s (s.swapHeap i j) := by
  refine ⟨heapOnly_swapHeap s i j, by simp, State.liveHeap_swapHeap_perm hs hi hj, fun k hk => ?_⟩
  rw [State.heapAt_swapHeap _ _ (by omega) (by omega), if_neg (by omega), if_neg (by omega)]

theorem State.leastChild_lt {s : State} {i : Nat} (h : i < s.live) : s.leastChild i < s.live := by
  simp only [State.leastChild, Bool.and_eq_true, decide_eq_true_eq]
  split_ifs <;> omega

theorem rearranged_siftDownLoop (turns : Nat) {i : Nat} {s : State} (hs : s.live ≤ 256) (hi : i < s.live) :
    Rearranged s (siftDownLoop turns i s) := by
  induction turns generalizing i s with
  | zero => exact .refl s
  | succ n ih =>
    simp only [siftDownLoop]
    split
    · exact .refl s
    · have hm := State.leastChild_lt hi
      exact (rearranged_swapHeap hs hi hm).trans (ih (by simpa using hs) (by simpa using hm))

theorem rearranged_siftUpLoop (turns : Nat) {i : Nat} {s : State} (hs : s.live ≤ 256) (hi : i < s.live) :
    Rearranged s (siftUpLoop turns i s) := by
  induction turns generalizing i s with
  | zero => exact .refl s
  | succ n ih =>
    simp only [siftUpLoop]
    split
    · exact .refl s
    · split
      · have hp : (i - 1) / 2 < s.live := by omega
        exact (rearranged_swapHeap hs hi hp).trans (ih (by simpa using hs) (by simpa using hp))
      · exact .refl s

theorem rearranged_heapify (n : Nat) {s : State} (hs : s.live ≤ 256) (hn : n ≤ s.live) : Rearranged s (heapify n s) := by
  induction n generalizing s with
  | zero => exact .refl s
  | succ n ih =>
    have h : Rearranged s (s.siftDown n) := rearranged_siftDownLoop _ hs hn
    exact h.trans (ih (by simpa using hs) (by simpa using Nat.le_of_succ_le hn))

/-! ### Appending, Insert and ExtractMin -/

/-- H[HEAP_SIZE] <- n; HEAP_SIZE <- HEAP_SIZE + 1: the first part of Insert (R110), and HEAP_BUILD's loading of a symbol (R111). -/
def State.appendEntry (s : State) (n : Idx) : State := (s.setHeap s.live n).setLive (s.live + 1)

theorem State.appendLeaf_eq (s : State) (v : Byte) : s.appendLeaf v = s.appendEntry (leafSlot v) := rfl

theorem heapOnly_appendEntry (s : State) (n : Idx) : HeapOnly s (s.appendEntry n) :=
  (heapOnly_setHeap _ _ _).trans (heapOnly_setLive _ _)

theorem State.live_appendEntry {s : State} (n : Idx) (h : s.live < 256) : (s.appendEntry n).live = s.live + 1 :=
  State.live_setLive _ (by omega)

theorem State.liveHeap_appendEntry {s : State} (n : Idx) (h : s.live < 256) : (s.appendEntry n).liveHeap = s.liveHeap ++ [n] := by
  have hlen : s.live < s.heap.cells.length := by rw [s.heap.size]; exact h
  have hcells : (s.appendEntry n).heap.cells = s.heap.cells.set s.live n := State.cells_setHeap _ _ _
  rw [State.liveHeap, State.live_appendEntry n h, hcells, List.take_add_one, List.take_set, List.set_eq_of_length_le (by simp)]
  simp [State.liveHeap, hlen]

theorem tailNil_appendEntry {s : State} (n : Idx) (h : s.live < 256) (hs : s.HeapTailNil) : (s.appendEntry n).HeapTailNil := by
  refine ⟨by rw [State.live_appendEntry n h]; omega, fun i hi => ?_⟩
  rw [State.live_appendEntry n h] at hi
  rw [State.appendEntry, State.heapAt_setLive, State.heapAt_setHeap_ne _ _ (by omega)]
  exact hs.2 i (by omega)

/-- Insert puts n among the live entries (R110). -/
theorem insert_rearranges {s : State} (n : Idx) (h : s.live < 256) : Rearranged (s.appendEntry n) (s.insert n) := by
  have hl := State.live_appendEntry n h
  exact rearranged_siftUpLoop _ (by omega) (by omega)

theorem liveHeap_insert_perm {s : State} (n : Idx) (h : s.live < 256) : (s.insert n).liveHeap.Perm (n :: s.liveHeap) := by
  refine (insert_rearranges n h).perm.trans ?_
  rw [State.liveHeap_appendEntry n h]
  exact List.perm_append_singleton _ _

theorem tailNil_insert {s : State} (n : Idx) (h : s.live < 256) (hs : s.HeapTailNil) : (s.insert n).HeapTailNil :=
  (insert_rearranges n h).tailNil (tailNil_appendEntry n h hs)

/-- H[0] taken out: HEAP_SIZE one less, the last live entry at position 0, NIL where it stood: ExtractMin before its SiftDown (R109). -/
def State.dropMin (s : State) : State :=
  let s1 := s.setLive (s.live - 1)
  (if s.live - 1 > 0 then s1.setHeap 0 (s1.heapAt (s.live - 1)) else s1).setHeap (s.live - 1) Config.nil

theorem State.live_dropMin (s : State) : s.dropMin.live = s.live - 1 := by
  have h : s.live - 1 < 512 := Nat.lt_of_le_of_lt (Nat.sub_le _ _) s.heapSize.isLt
  simp only [State.dropMin]
  split <;> simp [State.live_setLive _ h]

theorem rearranged_extractMin {s : State} (h : s.live ≤ 256) : Rearranged s.dropMin s.extractMin.2 := by
  simp only [State.extractMin]
  split
  next h0 =>
    have : Rearranged s.dropMin (s.dropMin.siftDown 0) :=
      rearranged_siftDownLoop _ (by rw [State.live_dropMin]; omega) (by rw [State.live_dropMin]; omega)
    simpa only [State.dropMin, if_pos h0] using this
  next h0 => simpa only [State.dropMin, if_neg h0] using Rearranged.refl s.dropMin

theorem tailNil_dropMin {s : State} (hs : s.HeapTailNil) : s.dropMin.HeapTailNil := by
  have hle := hs.1
  refine ⟨by rw [State.live_dropMin]; omega, fun i hi => ?_⟩
  rw [State.live_dropMin] at hi
  simp only [State.dropMin]
  rw [State.heapAt_setHeap]
  split
  · rfl
  next hne =>
    have hi' : s.live ≤ i ∨ 256 ≤ i := by omega
    have : s.heapAt i = Config.nil := hi'.elim (hs.2 i) (State.heapAt_beyond s)
    split
    · rwa [State.heapAt_setHeap_ne _ _ (by omega)]
    · exact this

theorem tailNil_extractMin {s : State} (hs : s.HeapTailNil) : s.extractMin.2.HeapTailNil :=
  (rearranged_extractMin hs.1).tailNil (tailNil_dropMin hs)

theorem State.liveHeap_eq_append {s : State} (h0 : 0 < s.live) (h : s.live ≤ 256) :
    s.liveHeap = s.heap.cells.take (s.live - 1) ++ [s.heapAt (s.live - 1)] := by
  have hlt : s.live - 1 < s.heap.cells.length := by rw [s.heap.size]; omega
  calc s.heap.cells.take s.live = s.heap.cells.take (s.live - 1 + 1) := by rw [Nat.sub_add_cancel h0]
    _ = _ := by rw [List.take_add_one, State.heapAt_of_lt (by omega)]; simp [hlt]

theorem State.liveHeap_dropMin (s : State) :
    s.dropMin.liveHeap = (s.heap.cells.take (s.live - 1)).set 0 (s.heapAt (s.live - 1)) := by
  rw [State.liveHeap, State.live_dropMin, State.dropMin, State.cells_setHeap, List.take_set, List.set_eq_of_length_le (by simp)]
  split
  · simp [State.cells_setHeap, List.take_set]
  next h0 => simp [Nat.eq_zero_of_not_pos h0]

/-- The live entries are H[0] and those that ExtractMin leaves. -/
theorem liveHeap_extractMin_perm {s : State} (h0 : 0 < s.live) (h : s.live ≤ 256) :
    s.liveHeap.Perm (s.heapAt 0 :: s.extractMin.2.liveHeap) := by
  refine .trans ?_ ((rearranged_extractMin h).perm.symm.cons _)
  rw [State.liveHeap_dropMin]
  cases hc : s.heap.cells.take (s.live - 1) with
  | nil =>
    have h1 : s.live - 1 = 0 := by
      have := congrArg List.length hc
      simp [s.heap.size] at this
      omega
    rw [State.liveHeap_eq_append h0 h, hc, h1]
    exact .refl _
  | cons a m =>
    have hfirst : s.heapAt 0 = a := by
      rw [← State.getElem_liveHeap (i := 0) (by rw [State.length_liveHeap h]; exact h0)]
      simp [State.liveHeap_eq_append h0 h, hc]
    rw [State.liveHeap_eq_append h0 h, hc, hfirst]
    exact (List.perm_append_singleton _ _).trans (.swap _ _ _)

end Sys2Proof.Machine
end

section
/-! PROOFS. The trees that the live heap entries and ROOT hold, through HEAP_BUILD, the merges and the end of TREE_BUILD (spec/10_state.md R50;
42_heap.md R111; 43_tree_builder.md R113 to R118). -/

namespace Sys2Proof.Machine

open Sys2Proof

/-! ### Trees and the node RAM -/

theorem State.Denotes.congr {s u : State} (h : u.node = s.node) {t : CodeTree} {n : Idx} (ht : s.Denotes t n) : u.Denotes t n := by
  induction t generalizing n with
  | leaf v => exact ht
  | node l r ihl ihr =>
    obtain ⟨j, hj, hv, hl, hr⟩ := ht
    exact ⟨j, hj, h ▸ hv, ihl (h ▸ hl), ihr (h ▸ hr)⟩

theorem State.DenotesBelow.denotes {s : State} {k : Nat} {t : CodeTree} {n : Idx} (h : s.DenotesBelow k t n) : s.Denotes t n := by
  induction t generalizing n with
  | leaf v => exact h
  | node l r ihl ihr =>
    obtain ⟨-, j, hj, hv, hl, hr⟩ := h
    exact ⟨j, hj, hv, ihl hl, ihr hr⟩

/-- A tree below slot k stands as long as the slots below k do. -/
theorem State.DenotesBelow.mono {s u : State} {k m : Nat} (hkm : k ≤ m)
    (hnode : ∀ j : Fin 255, 256 + j.val < k → u.node.get j = s.node.get j) {t : CodeTree} {n : Idx} (h : s.DenotesBelow k t n) :
    u.DenotesBelow m t n := by
  induction t generalizing n with
  | leaf v => exact h
  | node l r ihl ihr =>
    obtain ⟨hn, j, hj, hv, hl, hr⟩ := h
    have hg := hnode j (slot?_eq_some_iff.1 hj ▸ hn)
    rw [← hg] at hv hl hr
    exact ⟨lt_of_lt_of_le hn hkm, j, hj, hv, ihl hl, ihr hr⟩

theorem State.DenotesBelow.eq_leaf {s : State} {k : Nat} {t : CodeTree} {n : Idx} (h : s.DenotesBelow k t n) (hn : isLeaf n = true) :
    t = .leaf (leafValue n) := by
  cases t with
  | leaf v => rw [show n = leafSlot v from h, leafValue_leafSlot]
  | node l r =>
    obtain ⟨-, j, hj, -⟩ := h
    rw [slot?_eq_none_iff.2 (.inl hn)] at hj
    cases hj

theorem State.DenotesBelow.eq_node {s : State} {k : Nat} {t : CodeTree} {n : Idx} (h : s.DenotesBelow k t n) (hn : isLeaf n = false) :
    t.isNode = true := by
  cases t with
  | leaf v => rw [show n = leafSlot v from h, isLeaf_leafSlot] at hn; cases hn
  | node l r => rfl

/-- The entries of a list are trees that use up the allocated slots (R118). -/
def State.Forest (s : State) (l : List Idx) : Prop :=
  ∃ ts : List CodeTree, List.Forall₂ (s.DenotesBelow s.nextInt.toNat) ts l ∧
    s.nextInt.toNat = 256 + (ts.map CodeTree.internals).sum

theorem State.Forest.perm {s : State} {l m : List Idx} (h : s.Forest l) (p : l.Perm m) : s.Forest m := by
  obtain ⟨ts, hts, hsum⟩ := h
  obtain ⟨us, hus, hp⟩ := List.perm_comp_forall₂ p.symm hts.flip
  exact ⟨us, hus.flip, by rw [hsum, (hp.map CodeTree.internals).sum_eq]⟩

theorem State.Forest.congr {s u : State} {l : List Idx} (h : s.Forest l) (hn : u.node = s.node) (hi : u.nextInt = s.nextInt) :
    u.Forest l := by
  obtain ⟨ts, hts, hsum⟩ := h
  rw [← hi] at hts hsum
  exact ⟨ts, hts.imp fun t n ht => ht.mono le_rfl fun j _ => by rw [hn], hsum⟩

theorem forest_leaves {s : State} (vs : List Byte) (h : s.nextInt = Config.firstInternal) : s.Forest (vs.map leafSlot) := by
  refine ⟨vs.map .leaf, ?_, ?_⟩
  · rw [List.forall₂_map_left_iff, List.forall₂_map_right_iff]
    exact List.forall₂_same.2 fun v _ => rfl
  · have : (vs.map (CodeTree.internals ∘ CodeTree.leaf)).sum = 0 := List.sum_eq_zero (by simp [CodeTree.internals])
    rw [h, List.map_map, this]
    rfl

/-- The next slot is allocated below 511, and NEXT_INT goes up by one (R31). -/
theorem nextInt_succ {n : Idx} {j : Fin 255} (h : slot? n = some j) : (n + 1).toNat = n.toNat + 1 ∧ n.toNat = 256 + j.val := by
  have hn := slot?_eq_some_iff.1 h
  exact ⟨toNat_add_one (by omega), hn⟩

/-- Two trees of the forest joined at the next slot (R113). -/
theorem State.Forest.join {s u : State} {a b : Idx} {rest : List Idx} {w : Word} {j : Fin 255} (h : s.Forest (a :: b :: rest))
    (hj : slot? s.nextInt = some j) (hn : u.node = s.node.set j ⟨true, a, b, w⟩) (hi : u.nextInt = s.nextInt + 1) :
    u.Forest (s.nextInt :: rest) := by
  obtain ⟨ts, hts, hsum⟩ := h
  obtain ⟨hsucc, hslot⟩ := nextInt_succ hj
  rcases hts with _ | ⟨ha, _ | ⟨hb, hrest⟩⟩
  rename_i ta tb ts
  have keep : ∀ {t n}, s.DenotesBelow s.nextInt.toNat t n → u.DenotesBelow u.nextInt.toNat t n := fun ht =>
    ht.mono (by rw [hi, hsucc]; omega) fun i hlt => by
      rw [hn, Table.get_set_ne]
      rintro rfl
      omega
  have hnew : u.DenotesBelow u.nextInt.toNat (.node ta tb) s.nextInt :=
    ⟨by rw [hi, hsucc]; omega, j, hj, by simp [hn], by simpa [hn] using keep ha, by simpa [hn] using keep hb⟩
  refine ⟨_, .cons hnew (hrest.imp fun _ _ => keep), ?_⟩
  rw [hi, hsucc, hsum]
  simp only [List.map_cons, List.sum_cons, CodeTree.internals]
  omega

/-! ### The tree invariant -/

theorem State.HasTree.congr {s u : State} {t : CodeTree} (h : s.HasTree t) (hn : u.node = s.node) (hr : u.root = s.root) : u.HasTree t :=
  ⟨h.1, h.2.1, hr ▸ h.2.2.congr hn⟩

theorem treesOk_iff {s : State} : s.TreesOk ↔ s.HeapTailNil ∧ (s.root = Config.nil ∨ ∃ t, s.HasTree t) ∧
    (s.root ≠ Config.nil → s.live = 0 ∨ (s.live = 1 ∧ s.heapAt 0 = s.root)) ∧
    (s.live = 0 ∨ s.Forest s.liveHeap ∧ s.nextInt.toNat + s.live ≤ 512) := by
  constructor
  · rintro ⟨htail, hroot, halone, h0 | ⟨ts, hts, hsum, hle⟩⟩
    · exact ⟨htail, hroot, halone, .inl h0⟩
    · exact ⟨htail, hroot, halone, .inr ⟨⟨ts, hts, hsum⟩, hle⟩⟩
  · rintro ⟨htail, hroot, halone, h0 | ⟨⟨ts, hts, hsum⟩, hle⟩⟩
    · exact ⟨htail, hroot, halone, .inl h0⟩
    · exact ⟨htail, hroot, halone, .inr ⟨ts, hts, hsum, hle⟩⟩

/-- The tree invariant speaks of the node RAM, NEXT_INT, ROOT and the heap only. -/
theorem State.TreesOk.congr {s u : State} (h : s.TreesOk) (hp : u.treePart = s.treePart) : u.TreesOk := by
  obtain ⟨hn, hi, hr, hh, hz⟩ : u.node = s.node ∧ u.nextInt = s.nextInt ∧ u.root = s.root ∧ u.heap = s.heap ∧ u.heapSize = s.heapSize := by
    simpa [State.treePart] using hp
  have hlive : u.live = s.live := by rw [State.live, hz]; rfl
  have hheap : u.liveHeap = s.liveHeap := by rw [State.liveHeap, hlive, hh]; rfl
  have hat : ∀ i, u.heapAt i = s.heapAt i := fun i => by simp only [State.heapAt, hh]
  obtain ⟨htail, hroot, halone, hforest⟩ := treesOk_iff.1 h
  refine treesOk_iff.2 ⟨htail.congr (by rw [State.heapPart, hh, hz]; rfl), ?_, ?_, ?_⟩
  · rw [hr]
    exact hroot.imp_right fun ⟨t, ht⟩ => ⟨t, ht.congr hn hr⟩
  · rwa [hr, hlive, hat]
  · rw [hlive, hheap, hi]
    exact hforest.imp_right fun ⟨hf, hle⟩ => ⟨hf.congr hn hi, hle⟩

/-- With no live entry only ROOT counts. -/
theorem treesOk_of_empty {s : State} (htail : s.HeapTailNil) (h0 : s.live = 0) (hroot : s.root = Config.nil ∨ ∃ t, s.HasTree t) :
    s.TreesOk := treesOk_iff.2 ⟨htail, hroot, fun _ => .inl h0, .inl h0⟩

theorem treesOk_toReset (s : State) : s.toReset.TreesOk := treesOk_of_empty (heapTailNil_of_empty rfl rfl) rfl (.inl rfl)

/-! ### HEAP_BUILD (R111) -/

/-- Loading symbols appends their leaves to the live entries. -/
theorem loadLeaves (vs : List Byte) {s : State} (h : s.live + vs.length ≤ 256) (hs : s.HeapTailNil) :
    HeapOnly s (vs.foldl State.appendLeaf s) ∧ (vs.foldl State.appendLeaf s).HeapTailNil ∧
      (vs.foldl State.appendLeaf s).live = s.live + vs.length ∧
      (vs.foldl State.appendLeaf s).liveHeap = s.liveHeap ++ vs.map leafSlot := by
  induction vs generalizing s with
  | nil => exact ⟨.refl s, hs, rfl, by simp⟩
  | cons v vs ih =>
    simp only [List.length_cons] at h
    have hlt : s.live < 256 := by omega
    have hlive := State.live_appendEntry (leafSlot v) hlt
    obtain ⟨ho, ht, hl, hh⟩ := ih (s := s.appendLeaf v) (by rw [State.appendLeaf_eq, hlive]; omega) (tailNil_appendEntry _ hlt hs)
    refine ⟨(heapOnly_appendEntry s _).trans ho, ht, ?_, ?_⟩
    · rw [List.foldl_cons, hl, State.appendLeaf_eq, hlive, List.length_cons]
      omega
    · rw [List.foldl_cons, hh, State.appendLeaf_eq, State.liveHeap_appendEntry _ hlt]
      simp

theorem length_usedSymbols_le (s : State) : s.usedSymbols.length ≤ 256 := by
  have : (symbols.zip s.freq.cells).length ≤ 256 := by simp [symbols, s.freq.size]
  simpa [State.usedSymbols] using (List.length_filter_le _ _).trans this

theorem tailNil_discardTree (s : State) : s.discardTree.HeapTailNil := heapTailNil_of_empty rfl rfl

/-- HEAP_BUILD leaves the leaves of the used symbols on the heap, in some order, and no tree. -/
theorem buildHeap_law (s : State) : HeapOnly s.discardTree s.buildHeap ∧ s.buildHeap.HeapTailNil ∧
    s.buildHeap.liveHeap.Perm (s.usedSymbols.map leafSlot) := by
  have hlen := length_usedSymbols_le s
  obtain ⟨ho, ht, hl, hh⟩ := loadLeaves s.usedSymbols (s := s.discardTree) (by simpa [State.live] using hlen) (tailNil_discardTree s)
  have hr := rearranged_heapify ((s.usedSymbols.foldl State.appendLeaf s.discardTree).live / 2) ht.1 (Nat.div_le_self _ _)
  refine ⟨ho.trans hr.only, hr.tailNil ht, hr.perm.trans ?_⟩
  rw [hh]
  exact .of_eq (by simp [State.liveHeap, State.live])

theorem HeapOnly.lessTree {s t : State} (h : HeapOnly s t) : t.lessTree = s.lessTree := by rw [h]; rfl
theorem HeapOnly.root {s t : State} (h : HeapOnly s t) : t.root = s.root := by rw [h]

theorem treesOk_buildHeap (s : State) : s.buildHeap.TreesOk := by
  obtain ⟨ho, ht, hp⟩ := buildHeap_law s
  have hi : s.buildHeap.nextInt = Config.firstInternal := ho.nextInt
  have hr : s.buildHeap.root = Config.nil := ho.root
  refine treesOk_iff.2 ⟨ht, .inl hr, fun h => absurd hr h, .inr ⟨(forest_leaves _ hi).perm hp.symm, ?_⟩⟩
  rw [hi]
  have := ht.1
  show 256 + _ ≤ 512
  omega

/-! ### Merge (R113) -/

/-- What a merge does: two live entries become one tree at the next slot. -/
structure Merged (s t : State) : Prop where
  less : t.lessTree = s.lessTree
  root : t.root = s.root
  tail : t.HeapTailNil
  live : t.live = s.live - 1
  nextInt : t.nextInt = s.nextInt + 1
  join : ∃ j a b w rest, slot? s.nextInt = some j ∧ t.node = s.node.set j ⟨true, a, b, w⟩ ∧ s.liveHeap.Perm (a :: b :: rest) ∧
    t.liveHeap.Perm (s.nextInt :: rest)

theorem merged_of_merge {s t : State} (hs : s.HeapTailNil) (h2 : 2 ≤ s.live) (h : s.merge = .ok t) : Merged s t := by
  obtain ⟨j, a, b, w, d, ha, hb, hj, -, ht, hframe⟩ := State.merge_ok h
  have hle := hs.1
  have h1 := State.live_extractMin s
  have hs1 := tailNil_extractMin hs
  have h3 := State.live_extractMin s.extractMin.2
  have hs2 := tailNil_extractMin hs1
  generalize hu : { s.extractMin.2.extractMin.2 with
      node := s.node.set j ⟨true, a, b, w⟩, nextInt := s.nextInt + 1, draws := d } = u at ht
  have hulive : u.live = s.live - 2 := by subst hu; exact h3.trans (by omega)
  have huheap : u.liveHeap = s.extractMin.2.extractMin.2.liveHeap := by subst hu; rfl
  have hutail : u.HeapTailNil := by subst hu; exact hs2
  have hlt : u.live < 256 := by omega
  refine ⟨?_, ?_, ht ▸ tailNil_insert _ hlt hutail, ?_, ?_, j, a, b, w, u.liveHeap, hj, ?_, ?_, ht ▸ liveHeap_insert_perm _ hlt⟩
  · rw [hframe]; rfl
  · rw [hframe]
  · rw [ht, State.live_insert _ _ (by omega)]; omega
  · rw [hframe]
  · rw [hframe]
  · rw [huheap, ha, hb]
    exact (liveHeap_extractMin_perm (by omega) hle).trans ((liveHeap_extractMin_perm (by omega) hs1.1).cons _)

theorem treesOk_merge {s t : State} (hs : s.TreesOk) (h2 : 2 ≤ s.live) (h : s.merge = .ok t) : t.TreesOk := by
  obtain ⟨htail, -, halone, hforest⟩ := treesOk_iff.1 hs
  have m := merged_of_merge htail h2 h
  obtain ⟨j, a, b, w, rest, hj, hnode, hp, hq⟩ := m.join
  have hroot : t.root = Config.nil := m.root.trans (by by_contra hne; have := halone hne; omega)
  obtain ⟨hf, hle⟩ := hforest.resolve_left (by omega)
  refine treesOk_iff.2 ⟨m.tail, .inl hroot, fun hne => absurd hroot hne, .inr ⟨?_, ?_⟩⟩
  · exact ((hf.perm hp).join hj hnode m.nextInt).perm hq.symm
  · rw [m.nextInt, m.live, (nextInt_succ hj).1]
    omega

/-! ### TREE_STEP and TREE_BUILD (R114 to R117) -/

/-- Merging keeps what a merge keeps; HEAP_SIZE turns leave at most one live entry. -/
theorem mergeAll_induct {P : State → Prop} (hP : ∀ s t, P s → 2 ≤ s.live → s.merge = .ok t → P t ∧ t.live = s.live - 1) (turns : Nat)
    {s t : State} (hs : P s) (hm : mergeAll turns s = .ok t) : P t ∧ (s.live ≤ turns → t.live ≤ 1) := by
  induction turns generalizing s with
  | zero => cases hm; exact ⟨hs, fun h => by omega⟩
  | succ n ih =>
    simp only [mergeAll] at hm
    split at hm
    next h1 =>
      split at hm
      next u hu =>
        obtain ⟨hPu, hl⟩ := hP s u hs h1 hu
        obtain ⟨hPt, hlt⟩ := ih hPu hm
        exact ⟨hPt, fun h => hlt (by omega)⟩
      · cases hm
    next h1 => cases hm; exact ⟨hs, fun _ => by omega⟩

/-- What TREE_STEP and TREE_BUILD keep: the NIL tail, and everything but the trees and the heap. -/
def TreeKeeps (s t : State) : Prop := t.HeapTailNil ∧ t.lessTree = s.lessTree

theorem treeStep_keeps {s t : State} (hs : s.HeapTailNil) (h : s.treeStep = .ok t) : TreeKeeps s t := by
  unfold State.treeStep at h
  split at h
  · cases h; exact ⟨hs, rfl⟩
  next h2 =>
    split at h
    · have m := merged_of_merge hs (by omega) h
      exact ⟨m.tail, m.less⟩
    · cases h

theorem treesOk_treeStep {s t : State} (hs : s.TreesOk) (h : s.treeStep = .ok t) : t.TreesOk := by
  unfold State.treeStep at h
  split at h
  · cases h; exact hs
  next h2 =>
    split at h
    · exact treesOk_merge hs (by omega) h
    · cases h

/-- One entry of the heap replaced: the tail stays NIL. -/
theorem tailNil_setHeap {s : State} {i : Nat} (n : Idx) (hs : s.HeapTailNil) (hi : i < s.live) : (s.setHeap i n).HeapTailNil :=
  ⟨by simpa using hs.1, fun k hk => by
    rw [State.live_setHeap] at hk
    rw [State.heapAt_setHeap_ne _ _ (by omega), hs.2 k hk]⟩

/-- Everything the synthesis of a single-symbol tree does (R116). -/
theorem synthesize_ok {s t : State} {v : Idx} (h : s.synthesize v = .ok t) : ∃ j, slot? s.nextInt = some j ∧
    t = { s.setHeap 0 s.nextInt with
      node := s.node.set j ⟨true, v, v, s.weight v⟩, nextInt := s.nextInt + 1, root := s.nextInt } := by
  unfold State.synthesize at h
  split at h
  next u hu =>
    obtain ⟨j, hj, rfl⟩ := State.alloc_ok.1 hu
    refine ⟨j, hj, ?_⟩
    rw [← Except.ok.inj h]
    simp [State.setHeap]
  · cases h

theorem finalizeTree_keeps {s t : State} (hs : s.HeapTailNil) (h : s.finalizeTree = .ok t) : TreeKeeps s t := by
  unfold State.finalizeTree at h
  split at h
  · cases h; exact ⟨hs, rfl⟩
  next h0 =>
    split at h
    · obtain ⟨j, -, rfl⟩ := synthesize_ok h
      exact ⟨(tailNil_setHeap s.nextInt hs (Nat.pos_of_ne_zero h0)).congr rfl, by simp [State.lessTree]⟩
    · cases h; exact ⟨hs, rfl⟩

theorem treeBuild_keeps {s t : State} (hs : s.HeapTailNil) (h : s.treeBuild = .ok t) : TreeKeeps s t := by
  unfold State.treeBuild at h
  split at h
  · split at h
    next u hu =>
      obtain ⟨⟨htail, hless⟩, -⟩ := mergeAll_induct (P := TreeKeeps s) (fun v w hv h2 hm =>
        have m := merged_of_merge hv.1 h2 hm
        ⟨⟨m.tail, m.less.trans hv.2⟩, m.live⟩) _ ⟨hs, rfl⟩ hu
      have := finalizeTree_keeps htail h
      exact ⟨this.1, this.2.trans hless⟩
    · cases h
  · cases h

theorem State.liveHeap_of_one {s : State} (h : s.live = 1) : s.liveHeap = [s.heapAt 0] := by
  rw [State.liveHeap_eq_append (by omega) (by omega), h]
  simp

/-- A forest of one leaf has allocated nothing. -/
theorem State.Forest.twice_leaf {s : State} {n : Idx} (h : s.Forest [n]) (hn : isLeaf n = true) : s.Forest [n, n] := by
  obtain ⟨ts, hts, hsum⟩ := h
  rcases hts with _ | ⟨ht, _ | _⟩
  refine ⟨_, .cons ht (.cons ht .nil), ?_⟩
  rw [ht.eq_leaf hn] at hsum ⊢
  simpa [CodeTree.internals] using hsum

theorem isLeaf_of_slot {n : Idx} {j : Fin 255} (h : slot? n = some j) : isLeaf n = false := by
  have := slot?_eq_some_iff.1 h
  simp [isLeaf]
  omega

/-- ROOT as the only live entry is a tree when it is an internal node. -/
theorem treesOk_of_single {s : State} (htail : s.HeapTailNil) (h1 : s.live = 1) (hroot : s.heapAt 0 = s.root)
    (hnode : isLeaf s.root = false) (hf : s.Forest [s.root]) (hle : s.nextInt.toNat ≤ 511) : s.TreesOk := by
  refine treesOk_iff.2 ⟨htail, .inr ?_, fun _ => .inr ⟨h1, hroot⟩, .inr ⟨?_, by omega⟩⟩
  · obtain ⟨ts, hts, hsum⟩ := hf
    rcases hts with _ | ⟨ht, _ | _⟩
    simp only [List.map_cons, List.map_nil, List.sum_cons, List.sum_nil] at hsum
    exact ⟨_, ht.eq_node hnode, by omega, ht.denotes⟩
  · rwa [State.liveHeap_of_one h1, hroot]

/-- The end of TREE_BUILD (R115 to R117): the one live entry becomes ROOT, a lone leaf under a node of its own. -/
theorem treesOk_finalizeTree {s t : State} (hs : s.TreesOk) (h1 : s.live ≤ 1) (h : s.finalizeTree = .ok t) : t.TreesOk := by
  obtain ⟨htail, -, -, hforest⟩ := treesOk_iff.1 hs
  unfold State.finalizeTree at h
  split at h
  next h0 =>
    cases h
    exact treesOk_of_empty htail h0 (.inl rfl)
  next h0 =>
    have hone : s.live = 1 := by omega
    obtain ⟨hf, hle⟩ := hforest.resolve_left h0
    rw [State.liveHeap_of_one hone] at hf
    split at h
    next hleaf =>
      obtain ⟨j, hj, rfl⟩ := synthesize_ok h
      obtain ⟨hsucc, -⟩ := nextInt_succ hj
      exact treesOk_of_single ((tailNil_setHeap s.nextInt htail (by omega)).congr rfl) ((State.live_setHeap s 0 s.nextInt).trans hone)
        (State.heapAt_setHeap_self s s.nextInt (by decide)) (isLeaf_of_slot hj) ((hf.twice_leaf hleaf).join hj rfl rfl)
        (by show (s.nextInt + 1).toNat ≤ 511; omega)
    next hnode =>
      cases h
      exact treesOk_of_single htail hone rfl (by simpa using hnode) (hf.congr rfl rfl) (by show s.nextInt.toNat ≤ 511; omega)

theorem treesOk_treeBuild {s t : State} (hs : s.TreesOk) (h : s.treeBuild = .ok t) : t.TreesOk := by
  unfold State.treeBuild at h
  split at h
  · split at h
    next u hu =>
      obtain ⟨hOk, hl⟩ := mergeAll_induct (P := State.TreesOk) (fun v w hv h2 hm =>
        ⟨treesOk_merge hv h2 hm, (merged_of_merge hv.tail h2 hm).live⟩) _ hs hu
      exact treesOk_finalizeTree hOk (hl le_rfl) h
    · cases h
  · cases h

end Sys2Proof.Machine
end

section
/-! PROOFS. ParseHeader keeps everything but the tree, and what it hangs under ROOT is a tree (spec/10_state.md R37, R50; 45_tree_codec.md R125).

The idea: while the header is read, the allocated slots are a tree with holes, and the stack lists the holes in pre-order. `Grows` says so without
naming the tree: whatever trees come to hang in the holes, the whole is a tree, and its size is that of the slots so far and of those trees. -/

namespace Sys2Proof.Machine

open Sys2Proof

/-! ### Trees with holes -/

/-- A child field of the node RAM. -/
abbrev Hole := Idx × Side

/-- The child field h of u holds the tree t. -/
def State.Hangs (u : State) (t : CodeTree) (h : Hole) : Prop := ∃ c, u.child h.2 h.1 = .ok c ∧ u.Denotes t c

/-- u and s agree on the slots c to k - 1, but for the child fields in hs. -/
def State.Agrees (s u : State) (c k : Nat) (hs : List Hole) : Prop :=
  ∀ n j, slot? n = some j → c ≤ n.toNat → n.toNat < k →
    (u.node.get j).valid = (s.node.get j).valid ∧ ∀ side, (n, side) ∉ hs → u.child side n = s.child side n

/-- The slots c to k - 1 of s are a tree at n with the holes hs. -/
def State.Grows (s : State) (c k : Nat) (hs : List Hole) (n : Idx) : Prop :=
  ∀ (u : State) (ts : List CodeTree), s.Agrees u c k hs → List.Forall₂ u.Hangs ts hs →
    ∃ t, u.Denotes t n ∧ t.internals + c = k + (ts.map CodeTree.internals).sum

theorem grows_leaf (s : State) (k : Nat) {n : Idx} (h : isLeaf n = true) : s.Grows k k [] n := by
  intro u ts _ hts
  cases hts
  exact ⟨.leaf (leafValue n), (leafSlot_leafValue h).symm, by simp [CodeTree.internals]⟩

/-- A slot just allocated is a node with two holes. -/
theorem grows_node {s : State} {n : Idx} {j : Fin 255} (h : slot? n = some j) (hv : (s.node.get j).valid = true) :
    s.Grows n.toNat (n.toNat + 1) [(n, .left), (n, .right)] n := by
  intro u ts ha hts
  rcases hts with _ | ⟨⟨a, ha', hda⟩, _ | ⟨⟨b, hb', hdb⟩, _ | _⟩⟩
  obtain ⟨hl, hr⟩ := State.child_of_slot (s := u) h
  obtain rfl : a = (u.node.get j).left := Except.ok.inj (ha'.symm.trans hl)
  obtain rfl : b = (u.node.get j).right := Except.ok.inj (hb'.symm.trans hr)
  refine ⟨.node _ _, ⟨j, h, ((ha n j h le_rfl (Nat.lt_succ_self _)).1.trans hv), hda, hdb⟩, ?_⟩
  simp only [CodeTree.internals, List.map_cons, List.map_nil, List.sum_cons, List.sum_nil]
  omega

section graft
variable {s u v : State} {c k k' : Nat} {h : Hole} {hs new : List Hole}

/-- Above slot k only the holes of the grafted tree are open. -/
theorem State.Agrees.above (ha : v.Agrees u c k' (new ++ hs)) (hck : c ≤ k) (hbelow : ∀ x ∈ hs, x.1.toNat < k) : v.Agrees u k k' new := by
  intro m j hj hkm hmk
  obtain ⟨hv, hside⟩ := ha m j hj (hck.trans hkm) hmk
  refine ⟨hv, fun side hm => hside side fun hmem => (List.mem_append.1 hmem).elim hm fun hm' => ?_⟩
  exact absurd (hbelow _ hm') (not_lt.2 hkm)

/-- Below slot k only the old holes are open. -/
theorem State.Agrees.below (ha : v.Agrees u c k' (new ++ hs)) (hsame : s.Agrees v c k [h]) (hkk : k ≤ k')
    (habove : ∀ x ∈ new, k ≤ x.1.toNat) : s.Agrees u c k (h :: hs) := by
  intro m j hj hcm hmk
  obtain ⟨hv, hside⟩ := ha m j hj hcm (hmk.trans_le hkk)
  obtain ⟨hv', hside'⟩ := hsame m j hj hcm hmk
  refine ⟨hv.trans hv', fun side hm => (hside side fun hmem => ?_).trans (hside' side fun hmem => hm ?_)⟩
  · exact (List.mem_append.1 hmem).elim (fun hm' => absurd (habove _ hm') (not_le.2 hmk)) fun hm' => hm (List.mem_cons_of_mem _ hm')
  · exact List.mem_cons.2 (.inl (List.mem_singleton.1 hmem))

/-- Grafting: the first hole h is filled with n, where the slots k to k' - 1 are a tree with holes of its own. -/
theorem State.Grows.graft {r n : Idx} (hg : s.Grows c k (h :: hs) r) (hnew : v.Grows k k' new n) (hsame : s.Agrees v c k [h])
    (hchild : v.child h.2 h.1 = .ok n) (hck : c ≤ k) (hkk : k ≤ k') (hc : c ≤ h.1.toNat) (hnodup : (h :: hs).Nodup)
    (hbelow : ∀ x ∈ h :: hs, x.1.toNat < k) (habove : ∀ x ∈ new, k ≤ x.1.toNat) : v.Grows c k' (new ++ hs) r := by
  intro u ts ha hts
  have hhk := hbelow h (by simp)
  have hhs : h ∉ new ++ hs := fun hm => (List.mem_append.1 hm).elim (fun hm' => absurd (habove h hm') (not_le.2 hhk)) (List.nodup_cons.1 hnodup).1
  obtain ⟨ts1, ts2, hts1, hts2, rfl⟩ : ∃ ts1 ts2, List.Forall₂ u.Hangs ts1 new ∧ List.Forall₂ u.Hangs ts2 hs ∧ ts = ts1 ++ ts2 :=
    ⟨_, _, List.forall₂_take_append _ _ _ hts, List.forall₂_drop_append _ _ _ hts, (List.take_append_drop _ _).symm⟩
  obtain ⟨t1, ht1, hsize1⟩ := hnew u ts1 (ha.above hck fun x hx => hbelow x (List.mem_cons_of_mem _ hx)) hts1
  have hhang : u.Hangs t1 h := by
    obtain ⟨j, hj, -⟩ := State.child_ok.1 hchild
    exact ⟨n, by rw [(ha h.1 j hj hc (hhk.trans_le hkk)).2 h.2 hhs, hchild], ht1⟩
  obtain ⟨t, ht, hsize⟩ := hg u (t1 :: ts2) (ha.below hsame hkk habove) (.cons hhang hts2)
  refine ⟨t, ht, ?_⟩
  simp only [List.map_cons, List.sum_cons, List.map_append, List.sum_append] at hsize ⊢
  omega

end graft

/-! ### The holes on the stack -/

/-- The children an entry of ParseHeader's stack still waits for. -/
def StackEntry.holes (e : StackEntry) : List Hole :=
  match e.side with
  | .left => [(e.node, .left), (e.node, .right)]
  | .right => [(e.node, .right)]

/-- The holes of the tree, in pre-order. -/
def State.holes (s : State) : List Hole := s.stack.flatMap StackEntry.holes

/-- A child field written. -/
def Node.withChild (nd : Node) : Side → Idx → Node
  | .left, c => { nd with left := c }
  | .right, c => { nd with right := c }

/-- Attaching fills the first hole (R125). -/
theorem attach_ok {s t : State} {n : Idx} (h : s.attach n = .ok t) : ∃ x j, slot? x.1 = some j ∧ s.holes = x :: t.holes ∧
    t = { s with stack := t.stack, node := s.node.set j ((s.node.get j).withChild x.2 n) } ∧ t.stack.length ≤ s.stack.length := by
  unfold State.attach at h
  split at h
  · cases h
  next e rest hs =>
    cases hside : e.side with
    | left =>
      simp only [hside, State.setChild] at h
      split at h
      next j hj =>
        cases h
        exact ⟨(e.node, .left), j, hj, by simp [State.holes, hs, StackEntry.holes, hside], rfl, by simp [hs]⟩
      · cases h
    | right =>
      simp only [hside, State.setChild] at h
      split at h
      next j hj =>
        cases h
        exact ⟨(e.node, .right), j, hj, by simp [State.holes, hs, StackEntry.holes, hside], rfl, by simp [hs]⟩
      · cases h

/-- Writing a child field changes no other field of the links. -/
theorem child_set_withChild (s : State) {x : Hole} {j : Fin 255} (hj : slot? x.1 = some j) (n : Idx) {t : State}
    (ht : t.node = s.node.set j ((s.node.get j).withChild x.2 n)) :
    t.child x.2 x.1 = .ok n ∧ ∀ c k, s.Agrees t c k [x] := by
  obtain ⟨m, side⟩ := x
  refine ⟨?_, fun c k m' j' hj' _ _ => ?_⟩
  · cases side <;> simp [State.child, hj, ht, Node.withChild]
  · by_cases hjj : j = j'
    · subst hjj
      refine ⟨by cases side <;> simp [ht, Node.withChild], fun side' hne => ?_⟩
      have hm : m' = m := BitVec.eq_of_toNat_eq ((slot?_eq_some_iff.1 hj').trans (slot?_eq_some_iff.1 hj).symm)
      subst hm
      cases side <;> cases side' <;> simp_all [State.child, Node.withChild]
    · refine ⟨by rw [ht, Table.get_set_ne _ _ hjj], fun side' _ => ?_⟩
      simp [State.child, hj', ht, Table.get_set_ne _ _ hjj]

/-! ### The invariant of ParseHeader -/

/-- While a header is read: the slots 256 to k - 1 are a tree at r, with the stack's holes. -/
structure State.Sprouting (s : State) (k : Nat) (r : Idx) : Prop where
  grows : s.Grows 256 k s.holes r
  nodup : s.holes.Nodup
  range : ∀ x ∈ s.holes, x.1.toNat < k
  start : 256 ≤ k
  root : isLeaf r = false

theorem State.Grows.congr {s v : State} {c k : Nat} {hs : List Hole} {r : Idx} (h : s.Grows c k hs r) (ha : s.Agrees v c k []) :
    v.Grows c k hs r := fun u ts hu hts =>
  h u ts (fun n j hj hc hk =>
    have ⟨hv, hs⟩ := ha n j hj hc hk
    have ⟨hv', hs'⟩ := hu n j hj hc hk
    ⟨hv'.trans hv, fun side hm => (hs' side hm).trans (hs side (by simp))⟩) hts

theorem agrees_of_node_eq {s v : State} (h : ∀ j : Fin 255, 256 + j.val < k → v.node.get j = s.node.get j) (c : Nat) (hs : List Hole) :
    s.Agrees v c k hs := fun n j hj _ hk => by
  have hg := h j (slot?_eq_some_iff.1 hj ▸ hk)
  exact ⟨by rw [hg], fun side _ => by simp [State.child, hj, hg]⟩

/-- The holes of a node just placed: none of a leaf. -/
def newHoles (n : Idx) : List Hole := if isLeaf n then [] else [(n, .left), (n, .right)]

/-- The node n to be placed takes the slots k to NEXT_INT - 1: none for a leaf, its own for an internal node. -/
def State.Fresh (s : State) (k : Nat) (n : Idx) : Prop :=
  (isLeaf n = true ∧ s.nextInt.toNat = k) ∨
    ∃ j, slot? n = some j ∧ n.toNat = k ∧ s.nextInt.toNat = k + 1 ∧ (s.node.get j).valid = true

theorem State.Fresh.grows {s : State} {k : Nat} {n : Idx} (h : s.Fresh k n) : s.Grows k s.nextInt.toNat (newHoles n) n := by
  rcases h with ⟨hl, hk⟩ | ⟨j, hj, rfl, hk, hv⟩
  · rw [newHoles, if_pos hl, hk]
    exact grows_leaf s k hl
  · rw [newHoles, if_neg (by simp [isLeaf_of_slot hj]), hk]
    exact grows_node hj hv

theorem State.Fresh.holes {s : State} {k : Nat} {n : Idx} (h : s.Fresh k n) :
    k ≤ s.nextInt.toNat ∧ (newHoles n).Nodup ∧ ∀ x ∈ newHoles n, k ≤ x.1.toNat ∧ x.1.toNat < s.nextInt.toNat := by
  rcases h with ⟨hl, hk⟩ | ⟨j, hj, rfl, hk, -⟩
  · rw [newHoles, if_pos hl]
    exact ⟨hk.ge, by simp, by simp⟩
  · rw [newHoles, if_neg (by simp [isLeaf_of_slot hj]), hk]
    exact ⟨by omega, by simp, by simp⟩

/-- The first node of the header is the root. -/
theorem sprouting_root {s v : State} {n : Idx} (hf : s.Fresh 256 n) (hn : isLeaf n = false) (hnode : v.node = s.node)
    (hh : v.holes = newHoles n) : v.Sprouting s.nextInt.toNat n := by
  obtain ⟨hk, hnodup, hrange⟩ := hf.holes
  refine ⟨?_, hh ▸ hnodup, fun x hx => (hrange x (hh ▸ hx)).2, hk, hn⟩
  rw [hh]
  exact hf.grows.congr (agrees_of_node_eq (fun j _ => by rw [hnode]) _ _)

/-- A later node takes the first hole, and brings its own. -/
theorem State.Sprouting.attach {s t v : State} {k : Nat} {r n : Idx} (h : s.Sprouting k r) (hf : s.Fresh k n) (ht : s.attach n = .ok t)
    (hnode : v.node = t.node) (hh : v.holes = newHoles n ++ t.holes) : v.Sprouting s.nextInt.toNat r := by
  obtain ⟨x, j, hj, hholes, hteq, -⟩ := attach_ok ht
  obtain ⟨hgrows, hnodup, hrange, hstart, hroot⟩ := h
  rw [hholes] at hgrows hnodup hrange
  obtain ⟨hk, hnew, hnewrange⟩ := hf.holes
  have hvnode : v.node = s.node.set j ((s.node.get j).withChild x.2 n) := by rw [hnode, hteq]
  obtain ⟨hchild, hagree⟩ := child_set_withChild s hj n hvnode
  have hxk := hrange x (by simp)
  have hsub : v.Grows k s.nextInt.toNat (newHoles n) n := by
    refine hf.grows.congr (fun m i hi hkm hmk => ?_)
    obtain ⟨hv, hside⟩ := hagree k s.nextInt.toNat m i hi hkm hmk
    refine ⟨hv, fun side _ => hside side fun hm => ?_⟩
    rw [← List.mem_singleton.1 hm] at hxk
    exact absurd hxk (not_lt.2 hkm)
  refine ⟨?_, ?_, ?_, hstart.trans hk, hroot⟩
  · rw [hh]
    exact hgrows.graft hsub (hagree _ _) hchild hstart hk (by rw [slot?_eq_some_iff.1 hj]; omega) hnodup hrange
      fun y hy => (hnewrange y hy).1
  · rw [hh]
    refine List.nodup_append.2 ⟨hnew, (List.nodup_cons.1 hnodup).2, fun y hy z hz hyz => ?_⟩
    have := (hnewrange y hy).1
    have := hrange z (List.mem_cons_of_mem _ hz)
    rw [hyz] at *
    omega
  · rw [hh]
    intro y hy
    rcases List.mem_append.1 hy with hy | hy
    · exact (hnewrange y hy).2
    · exact (hrange y (List.mem_cons_of_mem _ hy)).trans_le hk

/-- No hole left: a tree. -/
theorem State.Sprouting.hasTree {s u : State} {r : Idx} (h : s.Sprouting s.nextInt.toNat r) (hs : s.stack = []) (hnode : u.node = s.node)
    (hroot : u.root = r) : ∃ t, u.HasTree t := by
  have hg := h.grows
  rw [State.holes, hs] at hg
  obtain ⟨t, ht, hsize⟩ := hg u [] (agrees_of_node_eq (fun j _ => by rw [hnode]) _ _) .nil
  refine ⟨t, ?_, ?_, hroot ▸ ht⟩
  · cases t with
    | leaf v =>
      have := h.root
      rw [show r = leafSlot v from ht, isLeaf_leafSlot] at this
      cases this
    | node l r => rfl
  · have : s.nextInt.toNat < 512 := s.nextInt.isLt
    simp at hsize
    omega

theorem State.Sprouting.congr {s v : State} {k : Nat} {r : Idx} (h : s.Sprouting k r)
    (hnode : ∀ j : Fin 255, 256 + j.val < k → v.node.get j = s.node.get j) (hstack : v.stack = s.stack) : v.Sprouting k r := by
  have hh : v.holes = s.holes := by rw [State.holes, hstack]; rfl
  refine ⟨?_, hh ▸ h.nodup, hh ▸ h.range, h.start, h.root⟩
  rw [hh]
  exact h.grows.congr (agrees_of_node_eq hnode _ _)

/-! ### ParseHeader's loop -/

/-- What has been read of a header at a point of ParseHeader: nothing, or a tree with the stack's holes. -/
def State.AtPoint (s : State) : ParsePoint → Prop
  | .first => s.stack = [] ∧ s.nextInt = Config.firstInternal
  | .tag r | .value r => s.Sprouting s.nextInt.toNat r

theorem State.AtPoint.congr {s v : State} {p : ParsePoint} (h : s.AtPoint p) (hn : v.node = s.node) (hi : v.nextInt = s.nextInt)
    (hs : v.stack = s.stack) : v.AtPoint p := by
  cases p with
  | first => exact ⟨hs.trans h.1, hi.trans h.2⟩
  | tag r | value r =>
    show v.Sprouting v.nextInt.toNat r
    rw [hi]
    exact State.Sprouting.congr h (fun j _ => by rw [hn]) hs

/-- The node n can be placed at point p. -/
def State.Placing (s : State) (n : Idx) : ParsePoint → Prop
  | .first => s.stack = [] ∧ isLeaf n = false ∧ s.Fresh 256 n
  | .tag r | .value r => ∃ k, s.Sprouting k r ∧ s.Fresh k n

/-- ParseHeader keeps everything but the ports, the node RAM, NEXT_INT, ROOT, the stack and EMPTY_ART, and the stack within 256 entries. -/
def ParseKeeps (s t : State) : Prop := t.lessParse = s.lessParse ∧ t.StackBounded

/-- ParseHeader at point p, started in s; Q says that it started with a good tree so far. -/
def ParseInv (s : State) (Q : Prop) (p : ParsePoint) (t : State) : Prop := ParseKeeps s t ∧ t.root = s.root ∧ (Q → t.AtPoint p)

/-- ParseHeader over or paused: ROOT is as it was or holds a tree. -/
def ParseDone (s : State) (Q : Prop) (t : State) : Prop := ParseKeeps s t ∧ (Q → t.root = s.root ∨ ∃ tree, t.HasTree tree)

section loop
variable {s t : State} {Q : Prop} {p : ParsePoint} {r n : Idx}

theorem ParseInv.done (h : ParseInv s Q p t) : ParseDone s Q t := ⟨h.1, fun _ => .inl h.2.1⟩

theorem finishHeader_ends (hk : ParseKeeps s t) (hroot : t.root = s.root)
    (htree : Q → ∀ u : State, u.node = t.node → u.root = r → ∃ tree, u.HasTree tree) :
    (finishHeader r t).Ends (ParseDone s Q) (Pos.inStage · .treeDeserialize) := by
  unfold finishHeader
  split
  · exact ⟨rfl, rfl, hk, fun _ => .inl hroot⟩
  · exact ⟨hk, fun q => .inr (htree q _ rfl rfl)⟩

theorem parseEnd_goesOn (hk : ParseKeeps s t) (hroot : t.root = s.root)
    (hgrown : Q → ∀ u : State, u.node = t.node → u.holes = newHoles n ++ t.holes → u.Sprouting t.nextInt.toNat r) :
    (parseEnd r n t).GoesOn (ParseInv s Q) (ParseDone s Q) (Pos.inStage · .treeDeserialize) t.inq := by
  unfold parseEnd
  split
  next hleaf =>
    have hgrown' : Q → t.Sprouting t.nextInt.toNat r := fun q => hgrown q t rfl (by simp [newHoles, hleaf])
    split
    next hs => exact finishHeader_ends hk hroot fun q u hn hr => (hgrown' q).hasTree hs hn hr
    next => exact ⟨rfl, hk, hroot, hgrown'⟩
  next hnode =>
    split
    next u hu =>
      obtain ⟨hlt, rfl⟩ := State.push_ok.1 hu
      exact ⟨rfl, ⟨hk.1, hlt⟩, hroot, fun q => hgrown q _ rfl (by simp [newHoles, hnode, State.holes, StackEntry.holes])⟩
    · trivial

theorem parseKeeps_attach {u : State} (hk : ParseKeeps s t) (h : t.attach n = .ok u) :
    ParseKeeps s u ∧ u.root = t.root ∧ u.nextInt = t.nextInt ∧ u.inq = t.inq := by
  obtain ⟨x, j, -, -, hu, hlen⟩ := attach_ok h
  refine ⟨⟨?_, hlen.trans hk.2⟩, by rw [hu], by rw [hu], by rw [hu]⟩
  rw [hu]
  exact hk.1

theorem parseNode_goesOn (hk : ParseKeeps s t) (hroot : t.root = s.root) (hplace : Q → t.Placing n p) :
    (parseNode p n t).GoesOn (ParseInv s Q) (ParseDone s Q) (Pos.inStage · .treeDeserialize) t.inq := by
  have later : ∀ r, (Q → ∃ k, t.Sprouting k r ∧ t.Fresh k n) → (parseNode (.tag r) n t).GoesOn (ParseInv s Q) (ParseDone s Q)
      (Pos.inStage · .treeDeserialize) t.inq := by
    intro r hplace
    simp only [parseNode]
    split
    next u hu =>
      obtain ⟨hku, hru, hiu, hqu⟩ := parseKeeps_attach hk hu
      rw [← hqu]
      refine parseEnd_goesOn hku (hru.trans hroot) fun q v hn hh => ?_
      obtain ⟨k, hS, hF⟩ := hplace q
      rw [hiu]
      exact hS.attach hF hu hn hh
    · trivial
  cases p with
  | first =>
    refine parseEnd_goesOn hk hroot fun q v hn hh => ?_
    obtain ⟨hs, hleaf, hF⟩ := hplace q
    exact sprouting_root hF hleaf hn (by rw [hh, State.holes, hs]; simp)
  | tag r => exact later r hplace
  | value r => exact later r hplace

/-- The slot of a TAG_INT is ready to be placed. -/
theorem placing_alloc {j : Fin 255} (hj : slot? t.nextInt = some j) (h : t.AtPoint p) (l m : Idx) (w : Word) :
    State.Placing { t with node := t.node.set j ⟨true, l, m, w⟩, nextInt := t.nextInt + 1 } t.nextInt p := by
  obtain ⟨hsucc, hval⟩ := nextInt_succ hj
  have fresh : ∀ k, t.nextInt.toNat = k →
      State.Fresh { t with node := t.node.set j ⟨true, l, m, w⟩, nextInt := t.nextInt + 1 } k t.nextInt := by
    rintro _ rfl
    exact .inr ⟨j, hj, rfl, hsucc, by simp⟩
  have later : ∀ r, t.Sprouting t.nextInt.toNat r →
      State.Placing { t with node := t.node.set j ⟨true, l, m, w⟩, nextInt := t.nextInt + 1 } t.nextInt (.tag r) := fun r hS => by
    refine ⟨_, hS.congr (fun i hi => Table.get_set_ne _ _ ?_) rfl, fresh _ rfl⟩
    rintro rfl
    omega
  cases p with
  | first => exact ⟨h.1, isLeaf_of_slot hj, fresh _ (by rw [h.2]; rfl)⟩
  | tag r => exact later r h
  | value r => exact later r h

theorem parseInternal_goesOn (h : ParseInv s Q p t) :
    (parseInternal p t).GoesOn (ParseInv s Q) (ParseDone s Q) (Pos.inStage · .treeDeserialize) t.inq := by
  unfold parseInternal
  split
  · exact h.done
  · split
    next u hu =>
      obtain ⟨j, hj, rfl⟩ := State.alloc_ok.1 hu
      obtain ⟨hk, hroot, hat⟩ := h
      exact parseNode_goesOn ⟨hk.1, hk.2⟩ hroot fun q => placing_alloc hj (hat q) _ _ _
    · trivial

theorem parseTag_goesOn (tag : Byte) (h : ParseInv s Q p t) :
    (parseTag p tag t).GoesOn (ParseInv s Q) (ParseDone s Q) (Pos.inStage · .treeDeserialize) t.inq := by
  unfold parseTag
  split
  · exact parseInternal_goesOn h
  · split
    · cases p with
      | first => exact h.done
      | tag r | value r => exact ⟨rfl, h⟩
    · exact h.done

theorem parseToken_goesOn (tok : Token) (ts : List Token) (h : ParseInv s Q p t) :
    (parseToken p tok (t.consume tok ts)).GoesOn (ParseInv s Q) (ParseDone s Q) (Pos.inStage · .treeDeserialize) ts := by
  obtain ⟨⟨hless, hstack⟩, hroot, hat⟩ := h
  have hkc : ParseKeeps s (t.consume tok ts) := ⟨by rw [lessParse_consume, hless], by simpa [State.StackBounded] using hstack⟩
  have hrc : (t.consume tok ts).root = s.root := by simpa using hroot
  have hac : Q → (t.consume tok ts).AtPoint p := fun q => (hat q).congr (by simp) (by simp) (by simp)
  have hc : ParseInv s Q p (t.consume tok ts) := ⟨hkc, hrc, hac⟩
  have hq : (t.consume tok ts).inq = ts := by simp
  cases tok with
  | fail => exact hc.done
  | endOfPass =>
    cases p with
    | first => exact ⟨⟨hkc.1, hkc.2⟩, fun _ => .inl hrc⟩
    | tag r | value r => exact hc.done
  | byte b =>
    cases p with
    | first | tag r => exact (parseTag_goesOn b hc).of_inq hq
    | value r =>
      have hplace : Q → (t.consume (.byte b) ts).Placing (leafSlot b) (.value r) := fun q =>
        ⟨_, hac q, .inl ⟨isLeaf_leafSlot b, rfl⟩⟩
      exact (parseNode_goesOn hkc hrc hplace).of_inq hq

end loop

theorem parseLoop_ends (p : ParsePoint) {s : State} (hb : s.StackBounded) :
    (parseLoop p s).Ends (ParseDone s (s.AtPoint p)) (Pos.inStage · .treeDeserialize) :=
  ends_overTokens (pos := Pos.parse) (J := ParseInv s (s.AtPoint p)) (W := (Pos.inStage · .treeDeserialize)) (fun _ => rfl) (fun _ _ h => h.done)
    (fun _ tok ts _ h => parseToken_goesOn tok ts h) p ⟨⟨rfl, hb⟩, rfl, id⟩

/-- TREE_DESERIALIZE discards the tree and ends with none or with the one it read. -/
theorem treeDeserializeBody_ends (s : State) :
    (treeDeserializeBody s).Ends (fun t => ParseKeeps s.discardTree t ∧ t.TreesOk) (Pos.inStage · .treeDeserialize) := by
  refine (parseLoop_ends .first (s := { s.discardTree with stack := [] }) (Nat.zero_le _)).imp fun t ⟨hk, hroot⟩ => ⟨hk, ?_⟩
  have hheap : t.heap = .fill 256 Config.nil := (congrArg State.heap hk.1 :)
  have hsize : t.heapSize = 0 := (congrArg State.heapSize hk.1 :)
  exact treesOk_of_empty (heapTailNil_of_empty hheap hsize) (by simp [State.live, hsize]) (hroot ⟨rfl, rfl⟩)

end Sys2Proof.Machine
end

section
/-! PROOFS. The invariants of spec/10_state.md R34, R35, R37, R39, R49 and R51 over every step: what a running command keeps, then the ways a
command is accepted, resumed and ended, then the host's actions. -/

namespace Sys2Proof.Machine

open Sys2Proof

/-! ### What a running command keeps -/

/-- The invariants that speak of the tables, the accumulator and the stack. -/
structure State.DataOk (s : State) : Prop where
  counts : s.CountsAgree
  heapTail : s.HeapTailNil
  acc : s.AccBounded
  codes : s.CodesAligned
  stack : s.StackBounded

/-- A command runs, with the reset input released. -/
structure State.Engaged (s : State) : Prop where
  data : s.DataOk
  notDone : s.done = false
  released : s.inReset = false

/-- A command runs and no error is recorded: so does every body start and pause, but SOFT_RESET's and CLEAR_ERR's (R95). -/
structure State.Working (s : State) : Prop extends State.Engaged s where
  noErr : s.err = .none

theorem State.StackBounded.congr {s t : State} (h : s.StackBounded) (hs : t.stack = s.stack) : t.StackBounded := by
  unfold State.StackBounded
  rwa [hs]

/-- The elements that DataOk speaks of. -/
def State.dataPart (s : State) := (s.countPart, s.heapPart, s.accPart, s.codePart, s.stack)

theorem State.DataOk.congr {s t : State} (h : s.DataOk) (hp : t.dataPart = s.dataPart) : t.DataOk := by
  obtain ⟨hcount, hheap, hacc, hcode, hstack⟩ : t.countPart = s.countPart ∧ t.heapPart = s.heapPart ∧ t.accPart = s.accPart ∧
    t.codePart = s.codePart ∧ t.stack = s.stack := by simpa [State.dataPart] using hp
  exact ⟨h.counts.congr hcount, h.heapTail.congr hheap, h.acc.congr hacc, h.codes.congr hcode, h.stack.congr hstack⟩

/-- A group that a body leaves alone keeps its invariant; the one it writes has to be shown. -/
theorem State.Working.of_parts {s t : State} (h : s.Working) (hcontrol : t.controlPart = s.controlPart)
    (hcount : t.CountsAgree ∨ t.countPart = s.countPart) (hheap : t.HeapTailNil ∨ t.heapPart = s.heapPart)
    (hacc : t.AccBounded ∨ t.accPart = s.accPart) (hcode : t.CodesAligned ∨ t.codePart = s.codePart)
    (hstack : t.StackBounded ∨ t.stack = s.stack) : t.Working := by
  obtain ⟨hd, hr, he⟩ : t.done = s.done ∧ t.inReset = s.inReset ∧ t.err = s.err := by simpa [State.controlPart] using hcontrol
  have hdata : t.DataOk := ⟨hcount.elim id h.data.counts.congr, hheap.elim id h.data.heapTail.congr, hacc.elim id h.data.acc.congr,
    hcode.elim id h.data.codes.congr, hstack.elim id h.data.stack.congr⟩
  exact ⟨⟨hdata, hd.trans h.notDone, hr.trans h.released⟩, he.trans h.noErr⟩

section keeps
variable {s t : State}

theorem State.Working.of_lessCounts (h : s.Working) (hf : t.lessCounts = s.lessCounts) (hc : t.CountsAgree) : t.Working :=
  h.of_parts (congrArg State.controlPart hf :) (.inl hc) (.inr (congrArg State.heapPart hf :)) (.inr (congrArg State.accPart hf :))
    (.inr (congrArg State.codePart hf :)) (.inr (congrArg State.stack hf :))

theorem State.Working.of_packKeeps (h : s.Working) (hk : PackKeeps s t) : t.Working :=
  have ⟨hf, hacc⟩ := hk
  h.of_parts (congrArg State.controlPart hf :) (.inr (congrArg State.countPart hf :)) (.inr (congrArg State.heapPart hf :)) (.inl hacc)
    (.inr (congrArg State.codePart hf :)) (.inr (congrArg State.stack hf :))

theorem State.Working.of_walkKeeps (h : s.Working) (hf : WalkKeeps s t) : t.Working :=
  h.of_parts (congrArg State.controlPart hf :) (.inr (congrArg State.countPart hf :)) (.inr (congrArg State.heapPart hf :))
    (.inr (congrArg State.accPart hf :)) (.inr (congrArg State.codePart hf :)) (.inr (congrArg State.stack hf :))

theorem State.Working.of_serialKeeps (h : s.Working) (hk : SerialKeeps s t) : t.Working :=
  have ⟨hf, hstack⟩ := hk
  h.of_parts (congrArg State.controlPart hf :) (.inr (congrArg State.countPart hf :)) (.inr (congrArg State.heapPart hf :))
    (.inr (congrArg State.accPart hf :)) (.inr (congrArg State.codePart hf :)) (.inl (hstack h.data.stack))

theorem State.Working.of_lessCodes (h : s.Working) (hf : t.lessCodes = s.lessCodes) (hc : t.CodesAligned) (hs : t.StackBounded) :
    t.Working :=
  h.of_parts (congrArg State.controlPart hf :) (.inr (congrArg State.countPart hf :)) (.inr (congrArg State.heapPart hf :))
    (.inr (congrArg State.accPart hf :)) (.inl hc) (.inl hs)

theorem State.Working.of_treeKeeps (h : s.Working) (hk : TreeKeeps s t) : t.Working :=
  have ⟨htail, hf⟩ := hk
  h.of_parts (congrArg State.controlPart hf :) (.inr (congrArg State.countPart hf :)) (.inl htail)
    (.inr (congrArg State.accPart hf :)) (.inr (congrArg State.codePart hf :)) (.inr (congrArg State.stack hf :))

theorem State.Working.of_parseKeeps (h : s.Working) (hk : ParseKeeps s t) : t.Working :=
  have ⟨hf, hstack⟩ := hk
  h.of_parts (congrArg State.controlPart hf :) (.inr (congrArg State.countPart hf :)) (.inr (congrArg State.heapPart hf :))
    (.inr (congrArg State.accPart hf :)) (.inr (congrArg State.codePart hf :)) (.inl hstack)

theorem State.Working.discardTree (h : s.Working) : s.discardTree.Working := h.of_treeKeeps ⟨tailNil_discardTree s, rfl⟩

theorem State.Working.buildHeap (h : s.Working) : s.buildHeap.Working :=
  have ⟨hheap, htail, _⟩ := buildHeap_law s
  h.of_treeKeeps ⟨htail, hheap.lessTree⟩

theorem State.Engaged.tick (h : s.Engaged) : s.tick.Engaged := ⟨h.data.congr rfl, h.notDone, h.released⟩

theorem State.Working.tick (h : s.Working) : s.tick.Working := ⟨h.toEngaged.tick, h.noErr⟩

end keeps

/-- The positions of UNPACK are those of both its stages. -/
theorem Pos.inUnpack_inStage {p : Pos} (h : p.inUnpack) : p.inStage .unpack ∧ p.inStage .unpackUnlessEmpty := by
  cases p with
  | unpackRead => exact ⟨.inl rfl, .inr rfl⟩
  | unpackEmit b n => exact ⟨.inl rfl, .inr rfl⟩
  | _ => cases h

/-- A stage's body keeps the invariants of a running command. Only SOFT_RESET's and CLEAR_ERR's start with an error recorded (R95). -/
theorem stageBody_working (c : Stage) {s : State} (h : s.Engaged) (he : s.err = .none ∨ c = .softReset ∨ c = .clearErr) :
    (stageBody c s).Ends State.Working (Pos.inStage · c) := by
  have hclear : s.clearError.Working := ⟨⟨h.data.congr rfl, h.notDone, h.released⟩, rfl⟩
  by_cases hc : c = .softReset ∨ c = .clearErr
  · rcases hc with rfl | rfl
    · exact ⟨s.clearError, hclear, rfl⟩
    · exact hclear
  have hw : s.Working := ⟨h, he.resolve_right hc⟩
  cases c with
  | nop => exact hw
  | softReset => simp at hc
  | clearErr => simp at hc
  | freqClear => exact hw.of_lessCounts rfl (countsAgree_of_cleared rfl rfl rfl)
  | freqCount => exact (countLoop_ends s).imp fun t ⟨hf, hk⟩ => hw.of_lessCounts hf (hk h.data.counts)
  | heapBuild => exact hw.buildHeap
  | treeStep => exact ends_ofExcept fun t ht => hw.of_treeKeeps (treeStep_keeps h.data.heapTail ht)
  | treeBuild => exact ends_ofExcept fun t ht => hw.of_treeKeeps (treeBuild_keeps h.data.heapTail ht)
  | codesDerive => exact (codesDeriveBody_ends s _).imp fun t ⟨hc, hs, hf⟩ => hw.of_lessCodes hf hc hs
  | treeSerialize => exact (treeSerializeBody_ends s).imp fun t ht => hw.of_serialKeeps ht
  | treeDeserialize => exact (treeDeserializeBody_ends s).imp fun t ht => hw.discardTree.of_parseKeeps ht.1
  | pack => exact (packBody_ends s).imp fun t ht => hw.of_packKeeps ht
  | unpack => exact ((unpackBody_ends s).imp fun t ht => hw.of_walkKeeps ht).imp_pos fun p hp => (Pos.inUnpack_inStage hp).1
  | unpackUnlessEmpty =>
    exact ((unpackUnlessEmptyBody_ends s).imp fun t ht => hw.of_walkKeeps ht).imp_pos fun p hp => (Pos.inUnpack_inStage hp).2
  | illegal op => exact hw

/-- And so does a body that goes on from where it waits. -/
theorem resumeAt_working {p : Pos} {c : Stage} (hp : p.inStage c) {s : State} (h : s.Working) :
    (resumeAt p s).Ends State.Working (Pos.inStage · c) := by
  cases p with
  | enter d =>
    obtain rfl : d = c := hp
    simp only [resumeAt]
    split
    · exact ⟨rfl, rfl, h⟩
    · exact stageBody_working d h.tick.toEngaged (.inl h.noErr)
  | count =>
    obtain rfl : c = .freqCount := hp
    exact (countLoop_ends s).imp fun t ⟨hf, hk⟩ => h.of_lessCounts hf (hk h.data.counts)
  | serialize pending turns =>
    obtain rfl : c = .treeSerialize := hp
    exact (serialLoop_ends turns pending s).imp fun t ht => h.of_serialKeeps ht
  | parse p =>
    obtain rfl : c = .treeDeserialize := hp
    exact (parseLoop_ends p h.data.stack).imp fun t ht => h.of_parseKeeps ht.1
  | setRoot r =>
    obtain rfl : c = .treeDeserialize := hp
    exact (finishHeader_ends (s := s) (Q := False) ⟨rfl, h.data.stack⟩ rfl False.elim).imp fun t ht => h.of_parseKeeps ht.1
  | packRead =>
    obtain rfl : c = .pack := hp
    exact (packLoop_ends h.data.acc).imp fun t ht => h.of_packKeeps ht
  | packBits b n =>
    obtain rfl : c = .pack := hp
    exact (packFromBits_ends b n h.data.acc).imp fun t ht => h.of_packKeeps ht
  | packFlush =>
    obtain rfl : c = .pack := hp
    exact (flushPartial_ends h.data.acc).imp fun t ht => h.of_packKeeps ht
  | unpackRead =>
    refine ((unpackLoop_ends s).imp fun t ht => h.of_walkKeeps ht).imp_pos fun p hp' => ?_
    obtain ⟨h1, h2⟩ := Pos.inUnpack_inStage hp'
    rcases hp with rfl | rfl <;> assumption
  | unpackEmit b n =>
    refine ((unpackFromEmit_ends b n s).imp fun t ht => h.of_walkKeeps ht).imp_pos fun p hp' => ?_
    obtain ⟨h1, h2⟩ := Pos.inUnpack_inStage hp'
    rcases hp with rfl | rfl <;> assumption
  | fail e info => cases hp
  | leave => cases hp

/-! ### The states a command leaves -/

/-- The stages of an accepted word with opcode op. -/
def IsPlan (op : Byte) (plan : List Stage) : Prop := (∃ i, opcodeOf i = op ∧ Instr.plan i = plan) ∨ plan = [.illegal op]

theorem State.DataOk.inv_idle {s : State} (h : s.DataOk) (hq : s.seq = .idle) (he : s.ErrLegal) (hr : s.ResetHolds) : s.Inv where
  counts := h.counts
  heapTail := h.heapTail
  acc := h.acc
  codes := h.codes
  errLegal := he
  errHolds := fun _ => .inl hq
  seqLegal := by unfold State.SeqLegal; rw [hq]; trivial
  busyNotDone := fun hb => absurd hq (State.busy_eq_true_iff.1 hb)
  resetHolds := hr
  stack := h.stack

theorem State.Working.inv_running {s : State} (h : s.Working) {op : Byte} {pos : Pos} {todo : List Stage}
    (hl : State.SeqLegal { s with seq := .running op pos todo }) : State.Inv { s with seq := .running op pos todo } where
  counts := h.data.counts
  heapTail := h.data.heapTail
  acc := h.data.acc
  codes := h.data.codes
  errLegal := .inl h.noErr
  errHolds := fun he => absurd (congrArg ErrRecord.code h.noErr) he
  seqLegal := hl
  busyNotDone := fun _ => h.notDone
  resetHolds := fun hr => absurd (h.released.symm.trans hr) (by simp)
  stack := h.data.stack

theorem State.Working.inv_idle {s : State} (h : s.Working) (d : Bool) (e : ErrRecord)
    (he : State.ErrLegal { s with seq := .idle, done := d, err := e }) : State.Inv { s with seq := .idle, done := d, err := e } :=
  State.DataOk.inv_idle (h.data.congr rfl) rfl he
    fun hr => absurd (h.released.symm.trans hr) (by simp)

/-- A state at its reset values. -/
theorem dataOk_toReset (s : State) : s.toReset.DataOk where
  counts := countsAgree_of_cleared rfl rfl rfl
  heapTail := heapTailNil_of_empty rfl rfl
  acc := accBounded_of_zero rfl rfl
  codes := codesAligned_of_cleared rfl
  stack := Nat.zero_le _

theorem inv_of_toReset_eq {s : State} (h : s.toReset = s) : s.Inv := by
  rw [← h]
  exact (dataOk_toReset s).inv_idle rfl (.inl rfl) fun _ => rfl

theorem inv_softReset {s : State} (h : s.inReset = false) : s.softReset.Inv :=
  State.DataOk.inv_idle ((dataOk_toReset s).congr rfl) rfl (.inl rfl) fun hr => absurd (h.symm.trans hr) (by simp)

/-- What a command of a plan leaves meets the invariants. -/
theorem Leaves.inv {op : Byte} {plan : List Stage} {t : State} (h : Leaves State.Working op plan t) (hplan : IsPlan op plan) : t.Inv := by
  cases h with
  | completed s hs => exact hs.inv_idle true s.err (.inl hs.noErr)
  | beforeEnd s hs => exact hs.inv_running (.inl ⟨rfl, .inl rfl⟩)
  | raised e info s hs => exact hs.inv_idle s.done _ (.inr ⟨e, rfl, rfl⟩)
  | beforeRaise e info s hs => exact hs.inv_running (.inl ⟨rfl, .inr ⟨e, info, rfl⟩⟩)
  | waiting pre c todo pos s hp hpos hs => exact hs.inv_running (.inr ⟨plan, pre, c, hplan, hp, hpos⟩)
  | reset s hs => exact inv_softReset hs.released

theorem settle_inv {op : Byte} {plan : List Stage} (hplan : IsPlan op plan) (todo : List Stage) {pre : List Stage} {c : Stage}
    (hp : plan = pre ++ c :: todo) {r : Run} (hr : r.Ends State.Working (Pos.inStage · c)) {t : State}
    (ht : settle op (r.chain todo) = .next t) : t.Inv :=
  (leaves_of_chain (fun _ hs => hs.tick) (fun d _ hs => stageBody_working d hs.toEngaged (.inl hs.noErr)) todo hp hr ht).inv hplan

/-! ### Accepting a word -/

theorem errorKind_code_ne_zero (e : ErrorKind) : e.code ≠ 0 := by cases e <;> decide

/-- ERR.CODE = 0 says that nothing is recorded (R39). -/
theorem State.ErrLegal.eq_none {s : State} (h : s.ErrLegal) (hc : s.err.code = 0) : s.err = .none := by
  rcases h with h | ⟨e, he, -⟩
  · exact h
  · exact absurd (he.symm.trans hc) (errorKind_code_ne_zero e)

theorem State.Inv.dataOk {s : State} (h : s.Inv) : s.DataOk := ⟨h.counts, h.heapTail, h.acc, h.codes, h.stack⟩

theorem State.Inv.reject {s : State} (h : s.Inv) (hrel : s.inReset = false) : s.reject.Inv :=
  ⟨h.counts, h.heapTail, h.acc, h.codes, h.errLegal, h.errHolds, h.seqLegal, h.busyNotDone,
    fun hr => absurd (hrel.symm.trans hr) (by simp), h.stack⟩

/-- An accepted word, held before its first step or not (R92, R95). -/
theorem launch_inv {op : Byte} {c : Stage} {todo : List Stage} (hplan : IsPlan op (c :: todo)) {s : State} (h : s.Inv)
    (hrel : s.inReset = false) (he : s.err = .none ∨ ((c = .softReset ∨ c = .clearErr) ∧ todo = [])) {t : State}
    (ht : launch op c todo (fun u => (stageBody c u).chain todo) s = .next t) : t.Inv := by
  have ha : (s.accept op (.enter c) todo).Engaged := ⟨⟨h.counts, h.heapTail, h.acc, h.codes, h.stack⟩, rfl, hrel⟩
  cases hh : s.held with
  | true =>
    rw [launch_held hh] at ht
    obtain rfl := Host.Outcome.next.inj ht
    exact {
      counts := h.counts, heapTail := h.heapTail, acc := h.acc, codes := h.codes, errLegal := h.errLegal
      errHolds := fun hne => by
        rcases he with he | ⟨rfl | rfl, rfl⟩
        · exact absurd (congrArg ErrRecord.code he) hne
        · exact .inr (.inl ⟨op, rfl⟩)
        · exact .inr (.inr ⟨op, rfl⟩)
      seqLegal := .inr ⟨_, [], c, hplan, rfl, rfl⟩
      busyNotDone := fun _ => rfl
      resetHolds := fun hr => absurd (hrel.symm.trans hr) (by simp)
      stack := h.stack }
  | false =>
    rw [launch_runs hh] at ht
    exact settle_inv hplan todo (pre := []) rfl (stageBody_working c ha.tick (he.imp_right And.left)) ht

theorem command_inv {op : Byte} {c : Stage} {todo : List Stage} (hplan : IsPlan op (c :: todo)) {s : State} (h : s.Inv)
    (hrel : s.inReset = false) {t : State} (ht : command op c todo (fun u => (stageBody c u).chain todo) s = .next t) : t.Inv := by
  by_cases hd : s.busy = true ∨ s.errSet = true
  · rw [command_rejected hd] at ht
    obtain rfl := Host.Outcome.next.inj ht
    exact h.reject hrel
  · obtain ⟨hb, he⟩ : s.busy = false ∧ s.errSet = false := by simpa using hd
    rw [command_accepted hb he] at ht
    exact launch_inv hplan h hrel (.inl (h.errLegal.eq_none (State.errSet_eq_false_iff.1 he))) ht

theorem exec_inv (i : Instr) {s t : State} (h : s.Inv) (hrel : s.inReset = false) (ht : exec i s = .next t) : t.Inv := by
  by_cases hr : i = .softReset
  · subst hr
    rw [exec_softReset] at ht
    split at ht
    · obtain rfl := Host.Outcome.next.inj ht
      exact inv_softReset hrel
    · exact launch_inv (.inl ⟨.softReset, rfl, rfl⟩) h hrel (.inr ⟨.inl rfl, rfl⟩) ht
  by_cases hc : i = .clearErr
  · subst hc
    rw [exec_clearErr] at ht
    split at ht
    · obtain rfl := Host.Outcome.next.inj ht
      exact h.reject hrel
    · exact launch_inv (.inl ⟨.clearErr, rfl, rfl⟩) h hrel (.inr ⟨.inr rfl, rfl⟩) ht
  obtain ⟨c, todo, hplan, heq⟩ := exec_command hr hc s
  exact command_inv (.inl ⟨i, rfl, hplan⟩) h hrel (heq ▸ ht)

/-! ### Going on -/

theorem State.resume_enter_held {s : State} {op : Byte} {c : Stage} {todo : List Stage} (hq : s.seq = .running op (.enter c) todo)
    (hh : s.held = true) : s.resume = .next s := by
  rw [State.resume_running hq, resumeAt, if_pos hh, Run.chain_wait, settle_wait, List.nil_append, ← hq]

/-- A running command has the reset input released: while it is asserted SEQ is idle (R166). -/
theorem State.Inv.engaged {s : State} (h : s.Inv) (hq : s.seq ≠ .idle) : s.Engaged where
  data := h.dataOk
  notDone := h.busyNotDone (State.busy_eq_true_iff.2 hq)
  released := by
    by_contra hr
    have := h.resetHolds (by simpa using hr)
    exact hq (by rw [this]; rfl)

/-- Going on with no error recorded. -/
theorem resume_working_inv {s t : State} {op : Byte} {pos : Pos} {todo : List Stage} (hq : s.seq = .running op pos todo) (hw : s.Working)
    (hlegal : s.SeqLegal) (ht : s.resume = .next t) : t.Inv := by
  unfold State.SeqLegal at hlegal
  rw [hq] at hlegal
  rw [State.resume_running hq] at ht
  rcases hlegal with ⟨rfl, rfl | ⟨e, info, rfl⟩⟩ | ⟨plan, pre, c, hplan, hp, hpos⟩
  · exact (leaves_of_ret (fun _ hs => hs.tick) hw ht).inv (.inr rfl)
  · exact (leaves_of_raised (fun _ hs => hs.tick) hw ht).inv (.inr rfl)
  · exact settle_inv hplan todo hp (resumeAt_working hpos hw) ht

/-- Going on with an error recorded: SOFT_RESET or CLEAR_ERR before its first step (R95). -/
theorem resume_enter_inv {s t : State} {op : Byte} {c : Stage} (hq : s.seq = .running op (.enter c) [])
    (hc : c = .softReset ∨ c = .clearErr) (h : s.Inv) (hen : s.Engaged) (ht : s.resume = .next t) : t.Inv := by
  cases hh : s.held with
  | true =>
    rw [State.resume_enter_held hq hh] at ht
    obtain rfl := Host.Outcome.next.inj ht
    exact h
  | false =>
    have hlegal := h.seqLegal
    unfold State.SeqLegal at hlegal
    rw [hq] at hlegal
    rw [State.resume_running hq, resumeAt, if_neg (by simp [hh])] at ht
    rcases hlegal with ⟨-, hl | ⟨e, info, hl⟩⟩ | ⟨plan, pre, d, hplan, hp, rfl⟩
    · cases hl
    · cases hl
    · exact settle_inv hplan [] hp (stageBody_working c hen.tick (.inr hc)) ht

theorem resume_inv {s t : State} (h : s.Inv) (ht : s.resume = .next t) : t.Inv := by
  cases hq : s.seq with
  | idle =>
    rw [State.resume_idle hq] at ht
    obtain rfl := Host.Outcome.next.inj ht
    exact h
  | running op pos todo =>
    have hen : s.Engaged := h.engaged (by simp [hq])
    by_cases hcode : s.err.code = 0
    · exact resume_working_inv hq ⟨hen, h.errLegal.eq_none hcode⟩ h.seqLegal ht
    · rcases h.errHolds hcode with hi | ⟨op', hs⟩ | ⟨op', hs⟩
      · rw [hq] at hi
        cases hi
      · exact resume_enter_inv hs (.inl rfl) h hen ht
      · exact resume_enter_inv hs (.inr rfl) h hen ht

/-! ### The host's actions -/

/-- The host's side of the state is free. -/
theorem State.Inv.hostSide {s : State} (h : s.Inv) (hrel : s.inReset = false) (host : List HostAction) (pace : Option Nat)
    (inq : List Token) (sink : List SinkAnswer) (sinkRest : Option SinkAnswer) (busData : Word) (draws : Nat) :
    State.Inv { s with
      host := host, pace := pace, inq := inq, sink := sink, sinkRest := sinkRest, busData := busData, draws := draws } :=
  ⟨h.counts, h.heapTail, h.acc, h.codes, h.errLegal, h.errHolds, h.seqLegal, h.busyNotDone,
    fun hr => absurd (hrel.symm.trans hr) (by simp), h.stack⟩

theorem State.Inv.writeStatus {s : State} (h : s.Inv) (hrel : s.inReset = false) (v : Word) : (s.writeStatus v).Inv :=
  ⟨h.counts, h.heapTail, h.acc, h.codes, h.errLegal, h.errHolds, h.seqLegal,
    fun hb => by simp [State.writeStatus, h.busyNotDone hb],
    fun hr => absurd (hrel.symm.trans hr) (by simp), h.stack⟩

/-- A read changes the bus word and the draws only (R57; log 6). -/
theorem memRead_eq (s : State) (a : Offset) : ∃ w d, s.memRead a = { s with busData := w, draws := d } := by
  unfold State.memRead
  split
  · exact ⟨_, _, rfl⟩
  · split
    · exact ⟨_, _, rfl⟩
    · exact ⟨_, _, rfl⟩

theorem memWrite_inv {s t : State} (h : s.Inv) (hrel : s.inReset = false) (a : Offset) (v : Word) (ht : memWrite a v s = .next t) :
    t.Inv := by
  unfold memWrite at ht
  split at ht
  · unfold writeCmd at ht
    split at ht
    · exact exec_inv _ h hrel ht
    · rw [offerIllegal_command] at ht
      exact command_inv (.inr rfl) h hrel ht
  · obtain rfl := Host.Outcome.next.inj ht
    exact h.writeStatus hrel v
  · obtain rfl := Host.Outcome.next.inj ht
    exact h

theorem withdraw_next {s t : State} (h : s.withdraw = .next t) : t = { s with inq := [] } := by
  unfold State.withdraw at h
  split at h <;> cases h
  rfl

theorem actOutOfReset_inv (a : HostAction) {s t : State} (h : s.Inv) (hrel : s.inReset = false) (ht : actOutOfReset a s = .next t) :
    t.Inv := by
  cases a with
  | read off =>
    obtain rfl := Host.Outcome.next.inj ht
    obtain ⟨w, d, heq⟩ := memRead_eq s off
    rw [heq]
    exact h.hostSide hrel s.host s.pace s.inq s.sink s.sinkRest w d
  | write off v => exact memWrite_inv h hrel off v ht
  | feed words =>
    obtain rfl := Host.Outcome.next.inj ht
    exact h.hostSide hrel s.host s.pace _ s.sink s.sinkRest s.busData s.draws
  | withdraw =>
    obtain rfl := withdraw_next ht
    exact h.hostSide hrel s.host s.pace [] s.sink s.sinkRest s.busData s.draws
  | answer bits rest =>
    obtain rfl := Host.Outcome.next.inj ht
    exact h.hostSide hrel s.host s.pace s.inq _ _ s.busData s.draws
  | letRun pace => exact resume_inv (h.hostSide hrel s.host pace s.inq s.sink s.sinkRest s.busData s.draws) ht
  | assertReset =>
    obtain rfl := Host.Outcome.next.inj ht
    exact inv_of_toReset_eq (State.resetTo_toReset s true)
  | releaseReset =>
    obtain rfl := Host.Outcome.next.inj ht
    exact h

/-- While the reset input is asserted no action moves the state from its reset values (R166; log 10). -/
theorem actInReset_inv (a : HostAction) {s t : State} (ht : actInReset a s.toReset = .next t) : t.Inv := by
  refine inv_of_toReset_eq ?_
  cases a with
  | read off =>
    obtain rfl := Host.Outcome.next.inj ht
    obtain ⟨w, d, heq⟩ := memRead_eq s.toReset off
    rw [heq]
    rfl
  | withdraw => obtain rfl := withdraw_next ht; rfl
  | _ => obtain rfl := Host.Outcome.next.inj ht; rfl

theorem step_inv {s t : State} (h : s.Inv) (ht : step s = .next t) : t.Inv := by
  cases hh : s.host with
  | nil =>
    rw [step_no_action hh] at ht
    cases hr : s.inReset with
    | true =>
      rw [runFree_asserted hr] at ht
      obtain rfl := Host.Outcome.next.inj ht
      exact inv_of_toReset_eq (State.toReset_toReset s)
    | false =>
      rw [runFree_released hr] at ht
      exact resume_inv (h.hostSide hr s.host none s.inq s.sink s.sinkRest s.busData s.draws) ht
  | cons a rest =>
    rw [step_action hh] at ht
    cases hr : s.inReset with
    | true =>
      rw [hostAct_asserted (by exact hr)] at ht
      exact actInReset_inv a ht
    | false =>
      rw [hostAct_released (by exact hr)] at ht
      exact actOutOfReset_inv a (h.hostSide hr rest s.pace s.inq s.sink s.sinkRest s.busData s.draws) hr ht

/-! ### The statements -/

/-- Settles O57: the invariants of `State.Inv` are inductive as they stand. -/
theorem stepKeepsInvariants : Obligations.StepKeepsInvariants := fun _ _ h ht => step_inv h ht

/-- Settles O56: State.reset is a state at its reset values, with no live heap entry. -/
theorem resetMeetsInvariants : Obligations.ResetMeetsInvariants :=
  ⟨inv_of_toReset_eq rfl, treesOk_toReset State.reset⟩

end Sys2Proof.Machine
end

section
/-! PROOFS. The tree invariant of spec/10_state.md R50 from command to command. -/

namespace Sys2Proof.Machine

open Sys2Proof

theorem treesOk_softReset (s : State) : s.softReset.TreesOk := (treesOk_toReset s).congr rfl

theorem WalkKeeps.treePart {s t : State} (h : WalkKeeps s t) : t.treePart = s.treePart := (congrArg State.treePart h :)

/-- A stage's body keeps the tree invariant: most leave the trees and the heap alone. -/
theorem stageBody_treesOk (c : Stage) {s : State} (h : s.TreesOk) : (stageBody c s).Ends State.TreesOk (Pos.inStage · c) := by
  cases c with
  | nop => exact h
  | softReset => exact ⟨s, h, rfl⟩
  | clearErr => exact h.congr rfl
  | freqClear => exact h.congr rfl
  | freqCount => exact (countLoop_ends s).imp fun t ⟨hf, _⟩ => h.congr (congrArg State.treePart hf :)
  | heapBuild => exact treesOk_buildHeap s
  | treeStep => exact ends_ofExcept fun t ht => treesOk_treeStep h ht
  | treeBuild => exact ends_ofExcept fun t ht => treesOk_treeBuild h ht
  | codesDerive => exact (codesDeriveBody_ends s _).imp fun t ⟨_, _, hf⟩ => h.congr (congrArg State.treePart hf :)
  | treeSerialize => exact (treeSerializeBody_ends s).imp fun t ⟨hf, _⟩ => h.congr (congrArg State.treePart hf :)
  | treeDeserialize => exact (treeDeserializeBody_ends s).imp fun t ht => ht.2
  | pack => exact (packBody_ends s).imp fun t ⟨hf, _⟩ => h.congr (congrArg State.treePart hf :)
  | unpack => exact ((unpackBody_ends s).imp fun t hf => h.congr hf.treePart).imp_pos fun p hp => (Pos.inUnpack_inStage hp).1
  | unpackUnlessEmpty =>
    exact ((unpackUnlessEmptyBody_ends s).imp fun t hf => h.congr hf.treePart).imp_pos fun p hp => (Pos.inUnpack_inStage hp).2
  | illegal op => exact h

/-- A command that has ended leaves the trees in order. -/
theorem Leaves.treesOk {op : Byte} {plan : List Stage} {t : State} (h : Leaves State.TreesOk op plan t) (hidle : t.seq = .idle) :
    t.TreesOk := by
  cases h with
  | completed s hs => exact hs.congr rfl
  | beforeEnd s hs => cases hidle
  | raised e info s hs => exact hs.congr rfl
  | beforeRaise e info s hs => cases hidle
  | waiting pre c todo pos s hp hpos hs => cases hidle
  | reset s hs => exact treesOk_softReset s

theorem launch_treesOk {op : Byte} {c : Stage} {todo : List Stage} {s t : State} (h : s.TreesOk)
    (ht : launch op c todo (fun u => (stageBody c u).chain todo) s = .next t) (hidle : t.seq = .idle) : t.TreesOk := by
  cases hh : s.held with
  | true =>
    rw [launch_held hh] at ht
    obtain rfl := Host.Outcome.next.inj ht
    cases hidle
  | false =>
    have hstart : (s.accept op (.enter c) todo).tick.TreesOk := h.congr rfl
    rw [launch_runs hh] at ht
    have hl : Leaves State.TreesOk op (c :: todo) t := leaves_of_chain (fun _ hs => hs.congr rfl) (fun d _ hs => stageBody_treesOk d hs)
      todo (pre := []) rfl (stageBody_treesOk c hstart) ht
    exact hl.treesOk hidle

/-- A command offered in an idle block. -/
theorem exec_treesOk (i : Instr) {s t : State} (hq : s.seq = .idle) (h : s.TreesOk) (ht : exec i s = .next t) (hidle : t.seq = .idle) :
    t.TreesOk := by
  have hb : ¬ s.busy = true := by simp [hq]
  by_cases hr : i = .softReset
  · rw [hr, exec_softReset, if_neg hb] at ht
    exact launch_treesOk h ht hidle
  by_cases hc : i = .clearErr
  · rw [hc, exec_clearErr, if_neg hb] at ht
    exact launch_treesOk h ht hidle
  obtain ⟨c, todo, -, heq⟩ := exec_command hr hc s
  rw [heq] at ht
  unfold command at ht
  split at ht
  · obtain rfl := Host.Outcome.next.inj ht
    exact h.congr rfl
  · exact launch_treesOk h ht hidle

/-- Settles O58: the heap and ROOT through the builder (`treesOk_treeBuild`), ROOT through the deserializer (`treeDeserializeBody_ends`); no other
body touches them. -/
theorem commandsKeepTrees : Obligations.CommandsKeepTrees := fun i _ _ hready h ht hidle => exec_treesOk i hready.1 h ht hidle

end Sys2Proof.Machine
end

section
/-! PROOFS. The register space: which offsets name a register, and what an access does there (spec/20_memory.md R53 to R58, R67). -/

namespace Sys2Proof.Machine

open Sys2Proof

/-! ### Offsets that name no register -/

/-- A misaligned offset (R54) or a reserved one (R55). -/
def Unmapped (a : Offset) : Prop :=
  a.toNat % 4 ≠ 0 ∨ (0x0038 ≤ a.toNat ∧ a.toNat ≤ 0x03FC) ∨ a.toNat = 0x0FFC ∨ a.toNat = 0x13FC ∨ (0x1800 ≤ a.toNat ∧ a.toNat ≤ 0x1FFC)

/-- No register lies at an unmapped offset: one case for each range of the map. -/
theorem not_unmapped_offset (r : Reg) : ¬ Unmapped r.offset := by
  unfold Unmapped
  cases r with
  | freq v => rw [offset_freq_toNat]; omega
  | heap i => rw [offset_heap_toNat]; omega
  | nodeLink j => rw [offset_nodeLink_toNat]; omega
  | nodeFreq j => rw [offset_nodeFreq_toNat]; omega
  | codeLen v => rw [offset_codeLen_toNat]; omega
  | codeBits v w => rw [offset_codeBits_toNat]; omega
  | _ => decide

theorem regAt_of_unmapped {a : Offset} (h : Unmapped a) : regAt a = none := by
  cases hr : regAt a with
  | none => rfl
  | some r => exact absurd h (offset_of_regAt hr ▸ not_unmapped_offset r)

/-! ### Reads (R54 to R58) -/

theorem memRead_unmapped {a : Offset} (h : Unmapped a) (s : State) : s.memRead a = { s with busData := 0 } := by
  simp [State.memRead, regAt_of_unmapped h]

/-- A read that R58 makes exact. -/
theorem memRead_exact {s : State} {r : Reg} (h : s.busy = false ∨ r.exactWhileBusy = true) :
    s.memRead r.offset = { s with busData := s.readReg r } := by
  rcases h with h | h <;> simp [State.memRead, regAt_offset, h]

/-- A read that R58 leaves unspecified (log 6). -/
theorem memRead_free {s : State} {r : Reg} (hb : s.busy = true) (hr : r.exactWhileBusy = false) :
    s.memRead r.offset = { s with busData := Config.freeWord s.draws, draws := s.draws + 1 } := by
  simp [State.memRead, regAt_offset, hb, hr]

/-- The registers that read exactly while BUSY = 1: R58's six, and CMD (R56; log 9). -/
theorem Reg.exactWhileBusy_iff (r : Reg) :
    r.exactWhileBusy = true ↔ r ∈ [Reg.status, Reg.err, Reg.inCount, Reg.outCount, Reg.id, Reg.version, Reg.cmd] := by
  cases r <;> simp [Reg.exactWhileBusy]

/-! ### Writes (R54 to R56) -/

/-- A write to anything but CMD and STATUS is ignored. -/
theorem memWrite_ignored {a : Offset} (hcmd : a ≠ Reg.cmd.offset) (hstatus : a ≠ Reg.status.offset) (v : Word) (s : State) :
    memWrite a v s = .next s := by
  unfold memWrite
  split
  next h => exact absurd (offset_of_regAt h).symm hcmd
  next h => exact absurd (offset_of_regAt h).symm hstatus
  next => rfl

/-! ### The statements -/

/-- Settles O47: no register lies at such an offset. -/
theorem misalignedAndReservedAccess : Obligations.MisalignedAndReservedAccess := by
  intro s a v h
  have hcmd : a ≠ Reg.cmd.offset := fun e => not_unmapped_offset .cmd (e ▸ h)
  have hstatus : a ≠ Reg.status.offset := fun e => not_unmapped_offset .status (e ▸ h)
  exact ⟨memRead_unmapped h s, memWrite_ignored hcmd hstatus v s⟩

/-- Settles O48. -/
theorem onlyCmdAndStatusWritable : Obligations.OnlyCmdAndStatusWritable := fun s _ v =>
  ⟨fun hcmd hstatus => memWrite_ignored hcmd hstatus v s, memRead_exact (r := .cmd) (.inr rfl)⟩

/-- Settles O49: the model's list of the exact registers is R58's, with CMD. -/
theorem readsExactOrFree : Obligations.ReadsExactOrFree := by
  refine fun s r => ⟨fun hb => memRead_exact (.inl hb), fun _ hr => memRead_exact (.inr ?_), fun hb hr => memRead_free hb ?_⟩
  · exact r.exactWhileBusy_iff.2 (List.mem_append_left [Reg.cmd] hr)
  · exact Bool.eq_false_iff.2 (mt r.exactWhileBusy_iff.1 hr)

end Sys2Proof.Machine
end

section
/-! PROOFS. What the engine does to the streams, whatever it runs: it takes tokens from the front of IN and appends bytes to OUT (spec/20_memory.md
R60, R61; 60_exceptions.md R152). The host's own actions and the reset input it leaves alone. -/

namespace Sys2Proof.Machine

open Sys2Proof

/-! ### The engine's progress -/

/-- From s to t the engine has taken tokens from the front of IN and appended bytes to OUT; the host's actions still to come and the reset input
are the same. -/
structure State.Advances (s t : State) : Prop where
  inq : t.inq <:+ s.inq
  out : s.out <+: t.out
  host : t.host = s.host
  inReset : t.inReset = s.inReset

/-- The elements that `Advances` speaks of. -/
def State.portPart (s : State) : List Token × List Byte × List HostAction × Bool := (s.inq, s.out, s.host, s.inReset)

section advances
variable {s t u : State}

theorem advances_of_portPart (h : t.portPart = s.portPart) : s.Advances t := by
  obtain ⟨hi, ho, hh, hr⟩ : t.inq = s.inq ∧ t.out = s.out ∧ t.host = s.host ∧ t.inReset = s.inReset := by simpa [State.portPart] using h
  exact ⟨hi ▸ List.suffix_rfl, ho ▸ List.prefix_rfl, hh, hr⟩

theorem State.Advances.refl (s : State) : s.Advances s := advances_of_portPart rfl

theorem State.Advances.trans (h : s.Advances t) (k : t.Advances u) : s.Advances u :=
  ⟨k.inq.trans h.inq, h.out.trans k.out, k.host.trans h.host, k.inReset.trans h.inReset⟩

theorem State.Advances.congr (h : s.Advances t) (hp : u.portPart = t.portPart) : s.Advances u := h.trans (advances_of_portPart hp)

/-- ReadIn takes the front token. -/
theorem advances_consume {tok : Token} {ts : List Token} (h : s.inq = tok :: ts) : s.Advances (s.consume tok ts) :=
  ⟨by simp [h], by simp, by simp, by simp⟩

/-- Emit appends the byte or nothing. -/
theorem advances_emit {b : Byte} (h : s.emit b = .accepted t ∨ s.emit b = .failed t) : s.Advances t := by
  rcases h with h | h
  · obtain ⟨-, rest, -, rfl⟩ := State.emit_accepted.1 h
    exact ⟨List.suffix_rfl, List.prefix_append _ _, rfl, rfl⟩
  · obtain ⟨-, rest, -, rfl⟩ := State.emit_failed.1 h
    exact advances_of_portPart rfl

/-- A body that goes on from a state with the same ports. -/
theorem Run.Ends.advances_from {r : Run} {W : Pos → Prop} (h : r.Ends t.Advances W) (hp : t.portPart = s.portPart) :
    r.Ends s.Advances W :=
  h.imp fun _ => (advances_of_portPart hp).trans

/-- An iteration of a loop advances, and takes no token itself. -/
abbrev LoopStep.Advances {σ : Type} (s : State) (W : Pos → Prop) (x : LoopStep σ) : Prop := x.Keeps s.Advances W s.inq

theorem LoopStep.Advances.after {σ : Type} {x : LoopStep σ} {W : Pos → Prop} (h : x.Advances t W) (ha : s.Advances t)
    (hq : t.inq = s.inq) : x.Advances s W :=
  (h.imp fun _ => ha.trans).of_inq hq

theorem LoopStep.Advances.after_portPart {σ : Type} {x : LoopStep σ} {W : Pos → Prop} (h : x.Advances t W) (hp : t.portPart = s.portPart) :
    x.Advances s W :=
  h.after (advances_of_portPart hp) (congrArg Prod.fst hp)

/-- What runs after an iteration that goes on. -/
theorem LoopStep.Advances.more {σ : Type} {x : LoopStep σ} {y : σ} {r : Run} {W : Pos → Prop} (h : x.Advances s W) (hx : x = .more y t)
    (hr : r.Ends t.Advances W) : r.Ends s.Advances W := by
  subst hx
  exact hr.imp fun _ => h.2.trans

/-- What an iteration that ends the loop answers. -/
theorem LoopStep.Advances.stop {σ : Type} {x : LoopStep σ} {r : Run} {W : Pos → Prop} (h : x.Advances s W) (hx : x = .stop r) :
    r.Ends s.Advances W := by
  subst hx
  exact h

end advances

/-- A token loop advances when each of its iterations does: the tokens read so far are the front of IN. -/
theorem advances_overTokens {σ : Type} {pos : σ → Pos} {body : σ → Token → State → LoopStep σ} {W : Pos → Prop} (hpos : ∀ x, W (pos x))
    (hbody : ∀ x tok u, (body x tok u).Advances u W) (x : σ) (s : State) : (overTokens pos body s.inq x s).Ends s.Advances W := by
  have iteration : ∀ x u tok ts, s.Advances u → u.inq = tok :: ts →
      (body x tok (u.consume tok ts)).Keeps s.Advances W ts := fun x u tok ts h hq =>
    ((hbody x tok (u.consume tok ts)).imp fun _ => (h.trans (advances_consume hq)).trans).of_inq (by simp)
  refine overTokens_induct (P := fun _ => s.Advances) (Q := fun r => r.Ends s.Advances W) (fun x u h => ⟨rfl, hpos x, h⟩)
    (fun x u tok ts h hq _ x' u' hb => ?_) (fun x u tok ts h hq _ r hb => ?_) s.inq x s rfl (.refl s)
  · have := iteration x u tok ts h hq
    rwa [hb] at this
  · have := iteration x u tok ts h hq
    rwa [hb] at this

/-! ### The bodies of the stream commands -/

theorem countLoop_advances (s : State) : (countLoop s).Ends s.Advances (Pos.inStage · .freqCount) := by
  refine advances_overTokens (pos := fun _ => .count) (W := (Pos.inStage · .freqCount)) (fun _ => rfl) (fun _ tok u => ?_) () s
  cases tok with
  | fail => exact State.Advances.refl u
  | endOfPass => exact State.Advances.refl u
  | byte b =>
    simp only [countToken]
    split
    · exact State.Advances.refl u
    · exact ⟨rfl, advances_of_portPart rfl⟩

theorem putBit_advances {s t : State} {x : Bool} (h : s.putBit x = .accepted t ∨ s.putBit x = .failed t) :
    s.Advances t ∧ t.inq = s.inq := by
  unfold State.putBit at h
  split at h
  · split at h
    next u hu =>
      obtain rfl : u.clearAcc = t := by simpa using h
      exact ⟨(advances_emit (.inl hu)).congr rfl, (lessPorts_emit (.inl hu)).2⟩
    next u hu =>
      obtain rfl : u = t := by simpa using h
      exact ⟨advances_emit (.inr hu), (lessPorts_emit (.inr hu)).2⟩
    next => simp at h
  next =>
    obtain rfl : _ = t := by simpa using h
    exact ⟨advances_of_portPart rfl, rfl⟩

theorem putBits_advances (b : Byte) (n : Nat) (s : State) : (putBits b n s).Advances s (Pos.inStage · .pack) := by
  induction n generalizing s with
  | zero => exact ⟨rfl, .refl s⟩
  | succ n ih =>
    simp only [putBits]
    split
    next t ht =>
      obtain ⟨ha, hq⟩ := putBit_advances (.inl ht)
      exact (ih t).after ha hq
    next t ht => exact (putBit_advances (.inr ht)).1
    next => exact ⟨rfl, rfl, .refl s⟩

theorem flushPartial_advances (s : State) : (flushPartial s).Ends s.Advances (Pos.inStage · .pack) := by
  unfold flushPartial
  split
  · exact State.Advances.refl s
  · split
    next t ht => exact (advances_emit (.inl ht)).congr rfl
    next t ht => exact advances_emit (.inr ht)
    next => exact ⟨rfl, rfl, .refl s⟩

theorem packLoop_advances (s : State) : (packLoop s).Ends s.Advances (Pos.inStage · .pack) := by
  refine advances_overTokens (pos := fun _ => .packRead) (W := (Pos.inStage · .pack)) (fun _ => rfl) (fun _ tok u => ?_) () s
  cases tok with
  | fail => exact State.Advances.refl u
  | endOfPass => exact flushPartial_advances u
  | byte b =>
    simp only [packToken]
    split
    · exact State.Advances.refl u
    · exact putBits_advances b _ u

theorem packFromBits_advances (b : Byte) (n : Nat) (s : State) : (packFromBits b n s).Ends s.Advances (Pos.inStage · .pack) := by
  have hbits := putBits_advances b n s
  unfold packFromBits
  split
  next t ht => exact hbits.more ht (packLoop_advances t)
  next r hr => exact hbits.stop hr

theorem emitLeaf_advances {s t : State} (h : s.emitLeaf = .accepted t ∨ s.emitLeaf = .failed t) : s.Advances t := by
  unfold State.emitLeaf at h
  split at h
  next u hu =>
    obtain rfl : { u with cur := s.root } = t := by simpa using h
    exact (advances_emit (.inl hu)).congr rfl
  next u hu =>
    obtain rfl : u = t := by simpa using h
    exact advances_emit (.inr hu)
  next => simp at h

theorem walkBits_advances (b : Byte) (n : Nat) (s : State) : (walkBits b n s).Advances s Pos.inUnpack := by
  induction n generalizing s with
  | zero => exact ⟨rfl, .refl s⟩
  | succ n ih =>
    simp only [walkBits]
    split
    · trivial
    next c hc =>
      have hcur : s.Advances { s with cur := c } := advances_of_portPart rfl
      split
      · split
        next t ht => exact (ih t).after (hcur.trans (emitLeaf_advances (.inl ht))) (walkKeeps_emitLeaf (.inl ht)).2
        next t ht => exact hcur.trans (emitLeaf_advances (.inr ht))
        next => exact ⟨rfl, trivial, hcur⟩
      · exact (ih { s with cur := c }).after_portPart rfl

theorem unpackLoop_advances (s : State) : (unpackLoop s).Ends s.Advances Pos.inUnpack := by
  refine advances_overTokens (fun _ => trivial) (fun _ tok u => ?_) () s
  cases tok with
  | fail => exact State.Advances.refl u
  | endOfPass => exact advances_of_portPart rfl
  | byte b => exact walkBits_advances b 8 u

theorem unpackFromEmit_advances (b : Byte) (n : Nat) (s : State) : (unpackFromEmit b n s).Ends s.Advances Pos.inUnpack := by
  unfold unpackFromEmit
  split
  next t ht =>
    have hleaf := emitLeaf_advances (.inl ht)
    have hbits := walkBits_advances b n t
    split
    next u hu => exact (hbits.more hu (unpackLoop_advances u)).imp fun _ => hleaf.trans
    next r hr => exact (hbits.stop hr).imp fun _ => hleaf.trans
  next t ht => exact emitLeaf_advances (.inr ht)
  next => exact ⟨rfl, trivial, .refl s⟩

theorem unpackBody_advances (s : State) : (unpackBody s).Ends s.Advances Pos.inUnpack := by
  unfold unpackBody
  split
  · exact State.Advances.refl s
  · exact (unpackLoop_advances { s with cur := s.root }).advances_from rfl

theorem unpackUnlessEmptyBody_advances (s : State) : (unpackUnlessEmptyBody s).Ends s.Advances Pos.inUnpack := by
  unfold unpackUnlessEmptyBody
  split
  · exact State.Advances.refl s
  · exact unpackBody_advances s

theorem push_portPart {s t : State} {e : StackEntry} (h : s.push e = .ok t) : t.portPart = s.portPart := by
  obtain ⟨-, rfl⟩ := State.push_ok.1 h
  rfl

theorem serialNext_portPart {s t : State} {p q : Option Idx} (h : s.serialNext p = .ok (q, t)) : t.portPart = s.portPart := by
  unfold State.serialNext at h
  split at h
  · cases h; rfl
  · split at h
    · cases h; rfl
    · split at h
      · cases h; rfl
      · split at h
        · split at h
          next u hu =>
            split at h
            next v hv => cases h; exact (push_portPart hv).trans (push_portPart hu :)
            · cases h
          · cases h
        · cases h
        · cases h

theorem serialLoop_advances (turns : Nat) (p : Option Idx) (s : State) :
    (serialLoop turns p s).Ends s.Advances (Pos.inStage · .treeSerialize) := by
  induction turns generalizing p s with
  | zero =>
    unfold serialLoop
    split
    · exact State.Advances.refl s
    · trivial
  | succ n ih =>
    unfold serialLoop
    split
    · exact State.Advances.refl s
    · dsimp only
      split
      · exact ⟨rfl, rfl, .refl s⟩
      next t ht => exact advances_emit (.inr ht)
      next t ht =>
        split
        next q u hu => exact (ih q u).imp fun _ => ((advances_emit (.inl ht)).congr (serialNext_portPart hu)).trans
        · trivial

theorem treeSerializeBody_advances (s : State) : (treeSerializeBody s).Ends s.Advances (Pos.inStage · .treeSerialize) := by
  unfold treeSerializeBody
  split
  · exact State.Advances.refl s
  · exact (serialLoop_advances _ _ _).advances_from rfl

/-! ParseHeader: only its loop reads a token. -/

theorem finishHeader_advances (r : Idx) (s : State) : (finishHeader r s).Ends s.Advances (Pos.inStage · .treeDeserialize) := by
  unfold finishHeader
  split
  · exact ⟨rfl, rfl, .refl s⟩
  · exact advances_of_portPart rfl

theorem parseEnd_advances (r n : Idx) (s : State) : (parseEnd r n s).Advances s (Pos.inStage · .treeDeserialize) := by
  unfold parseEnd
  split
  · split
    · exact finishHeader_advances r s
    · exact ⟨rfl, .refl s⟩
  · split
    next t ht => exact ⟨congrArg Prod.fst (push_portPart ht), advances_of_portPart (push_portPart ht)⟩
    · trivial

theorem attach_portPart {s t : State} {n : Idx} (h : s.attach n = .ok t) : t.portPart = s.portPart := by
  obtain ⟨x, j, -, -, ht, -⟩ := attach_ok h
  rw [ht]
  rfl

theorem parseNode_advances (p : ParsePoint) (n : Idx) (s : State) : (parseNode p n s).Advances s (Pos.inStage · .treeDeserialize) := by
  have later : ∀ r, (parseNode (.tag r) n s).Advances s (Pos.inStage · .treeDeserialize) := fun r => by
    simp only [parseNode]
    split
    next t ht => exact (parseEnd_advances r n t).after_portPart (attach_portPart ht)
    · trivial
  cases p with
  | first => exact parseEnd_advances n n s
  | tag r => exact later r
  | value r => exact later r

theorem parseInternal_advances (p : ParsePoint) (s : State) : (parseInternal p s).Advances s (Pos.inStage · .treeDeserialize) := by
  unfold parseInternal
  split
  · exact State.Advances.refl s
  · split
    next t ht =>
      obtain ⟨j, -, rfl⟩ := State.alloc_ok.1 ht
      exact (parseNode_advances p _ _).after_portPart rfl
    · trivial

theorem parseTag_advances (p : ParsePoint) (tag : Byte) (s : State) : (parseTag p tag s).Advances s (Pos.inStage · .treeDeserialize) := by
  unfold parseTag
  split
  · exact parseInternal_advances p s
  · split
    · cases p with
      | first => exact State.Advances.refl s
      | tag r | value r => exact ⟨rfl, .refl s⟩
    · exact State.Advances.refl s

theorem parseToken_advances (p : ParsePoint) (tok : Token) (s : State) :
    (parseToken p tok s).Advances s (Pos.inStage · .treeDeserialize) := by
  cases tok with
  | fail => exact State.Advances.refl s
  | endOfPass =>
    cases p with
    | first => exact advances_of_portPart rfl
    | tag r | value r => exact State.Advances.refl s
  | byte b =>
    cases p with
    | first | tag r => exact parseTag_advances _ b s
    | value r => exact parseNode_advances (.value r) (leafSlot b) s

theorem parseLoop_advances (p : ParsePoint) (s : State) : (parseLoop p s).Ends s.Advances (Pos.inStage · .treeDeserialize) :=
  advances_overTokens (pos := Pos.parse) (W := (Pos.inStage · .treeDeserialize)) (fun _ => rfl) parseToken_advances p s

/-! ### The bodies of the tree commands leave the ports alone -/

theorem merge_portPart {s t : State} (h : s.merge = .ok t) : t.portPart = s.portPart := by
  obtain ⟨j, a, b, w, d, -, -, -, -, -, ht⟩ := State.merge_ok h
  rw [ht]
  rfl

theorem treeStep_portPart {s t : State} (h : s.treeStep = .ok t) : t.portPart = s.portPart := by
  unfold State.treeStep at h
  split at h
  · cases h; rfl
  · split at h
    · exact merge_portPart h
    · cases h

theorem finalizeTree_portPart {s t : State} (h : s.finalizeTree = .ok t) : t.portPart = s.portPart := by
  unfold State.finalizeTree at h
  split at h
  · cases h; rfl
  · split at h
    · obtain ⟨j, -, rfl⟩ := synthesize_ok h
      simp [State.portPart]
    · cases h; rfl

theorem mergeAll_portPart (turns : Nat) {s t : State} (h : mergeAll turns s = .ok t) : t.portPart = s.portPart := by
  induction turns generalizing s with
  | zero => cases h; rfl
  | succ n ih =>
    simp only [mergeAll] at h
    split at h
    · split at h
      next u hu => exact (ih h).trans (merge_portPart hu)
      · cases h
    · cases h; rfl

theorem treeBuild_portPart {s t : State} (h : s.treeBuild = .ok t) : t.portPart = s.portPart := by
  unfold State.treeBuild at h
  split at h
  · split at h
    next u hu => exact (finalizeTree_portPart h).trans (mergeAll_portPart _ hu)
    · cases h
  · cases h

theorem buildHeap_portPart (s : State) : s.buildHeap.portPart = s.portPart := (congrArg State.portPart (buildHeap_law s).1.lessTree :)

/-! ### Every body, from its start or from where it waits -/

theorem stageBody_advances (c : Stage) (s : State) : (stageBody c s).Ends s.Advances (Pos.inStage · c) := by
  cases c with
  | nop => exact State.Advances.refl s
  | softReset => exact ⟨s, .refl s, rfl⟩
  | clearErr => exact advances_of_portPart rfl
  | freqClear => exact advances_of_portPart rfl
  | freqCount => exact countLoop_advances s
  | heapBuild => exact advances_of_portPart (buildHeap_portPart s)
  | treeStep => exact ends_ofExcept fun _ ht => advances_of_portPart (treeStep_portPart ht)
  | treeBuild => exact ends_ofExcept fun _ ht => advances_of_portPart (treeBuild_portPart ht)
  | codesDerive => exact (codesDeriveBody_ends s _).imp fun _ ⟨_, _, hf⟩ => advances_of_portPart (congrArg State.portPart hf :)
  | treeSerialize => exact treeSerializeBody_advances s
  | treeDeserialize => exact (parseLoop_advances _ _).advances_from rfl
  | pack => exact (packLoop_advances _).advances_from rfl
  | unpack => exact (unpackBody_advances s).imp_pos fun _ hp => (Pos.inUnpack_inStage hp).1
  | unpackUnlessEmpty => exact (unpackUnlessEmptyBody_advances s).imp_pos fun _ hp => (Pos.inUnpack_inStage hp).2
  | illegal op => exact State.Advances.refl s

/-- A body that goes on from its position waits, if at all, within one stage. -/
theorem resumeAt_advances (p : Pos) (s : State) : ∃ c, (resumeAt p s).Ends s.Advances (Pos.inStage · c) := by
  cases p with
  | enter c =>
    refine ⟨c, ?_⟩
    simp only [resumeAt]
    split
    · exact ⟨rfl, rfl, .refl s⟩
    · exact (stageBody_advances c s.tick).advances_from rfl
  | count => exact ⟨_, countLoop_advances s⟩
  | serialize pending turns => exact ⟨_, serialLoop_advances turns pending s⟩
  | parse p => exact ⟨_, parseLoop_advances p s⟩
  | setRoot r => exact ⟨_, finishHeader_advances r s⟩
  | packRead => exact ⟨_, packLoop_advances s⟩
  | packBits b n => exact ⟨_, packFromBits_advances b n s⟩
  | packFlush => exact ⟨_, flushPartial_advances s⟩
  | unpackRead => exact ⟨_, (unpackLoop_advances s).imp_pos fun _ hp => (Pos.inUnpack_inStage hp).1⟩
  | unpackEmit b n => exact ⟨_, (unpackFromEmit_advances b n s).imp_pos fun _ hp => (Pos.inUnpack_inStage hp).1⟩
  | fail e info => exact ⟨.nop, State.Advances.refl s⟩
  | leave => exact ⟨.nop, State.Advances.refl s⟩

/-! ### Commands, and a command that goes on -/

theorem Leaves.advances {op : Byte} {plan : List Stage} {s t : State} (h : Leaves s.Advances op plan t) : s.Advances t := by
  cases h with
  | completed u hu => exact hu.congr rfl
  | beforeEnd u hu => exact hu.congr rfl
  | raised e info u hu => exact hu.congr rfl
  | beforeRaise e info u hu => exact hu.congr rfl
  | waiting pre c todo pos u hp hpos hu => exact hu.congr rfl
  | reset u hu => exact hu.congr rfl

/-- The stages still to run advance as the first one does. -/
theorem settle_advances {op : Byte} {c : Stage} {todo : List Stage} {r : Run} {s t : State} (hr : r.Ends s.Advances (Pos.inStage · c))
    (ht : settle op (r.chain todo) = .next t) : s.Advances t :=
  Leaves.advances (leaves_of_chain (fun _ hu => hu.congr rfl) (fun d u hu => (stageBody_advances d u).imp fun _ => hu.trans) todo
    (pre := []) rfl hr ht)

theorem launch_advances {op : Byte} {c : Stage} {todo : List Stage} {s t : State}
    (ht : launch op c todo (fun u => (stageBody c u).chain todo) s = .next t) : s.Advances t := by
  cases hh : s.held with
  | true =>
    rw [launch_held hh] at ht
    obtain rfl := Host.Outcome.next.inj ht
    exact advances_of_portPart rfl
  | false =>
    rw [launch_runs hh] at ht
    exact settle_advances ((stageBody_advances c (s.accept op (.enter c) todo).tick).advances_from rfl) ht

theorem command_advances {op : Byte} {c : Stage} {todo : List Stage} {s t : State}
    (ht : command op c todo (fun u => (stageBody c u).chain todo) s = .next t) : s.Advances t := by
  unfold command at ht
  split at ht
  · obtain rfl := Host.Outcome.next.inj ht
    exact advances_of_portPart rfl
  · exact launch_advances ht

theorem exec_advances (i : Instr) {s t : State} (ht : exec i s = .next t) : s.Advances t := by
  by_cases hr : i = .softReset
  · rw [hr, exec_softReset] at ht
    split at ht
    · obtain rfl := Host.Outcome.next.inj ht
      exact advances_of_portPart rfl
    · exact launch_advances ht
  by_cases hc : i = .clearErr
  · rw [hc, exec_clearErr] at ht
    split at ht
    · obtain rfl := Host.Outcome.next.inj ht
      exact advances_of_portPart rfl
    · exact launch_advances ht
  obtain ⟨c, todo, -, heq⟩ := exec_command hr hc s
  exact command_advances (heq ▸ ht)

theorem resume_advances {s t : State} (ht : s.resume = .next t) : s.Advances t := by
  cases hq : s.seq with
  | idle =>
    rw [State.resume_idle hq] at ht
    obtain rfl := Host.Outcome.next.inj ht
    exact .refl s
  | running op pos todo =>
    obtain ⟨c, hr⟩ := resumeAt_advances pos s
    exact settle_advances hr (State.resume_running hq ▸ ht)

theorem memWrite_advances {a : Offset} {v : Word} {s t : State} (ht : memWrite a v s = .next t) : s.Advances t := by
  unfold memWrite at ht
  split at ht
  · unfold writeCmd at ht
    split at ht
    · exact exec_advances _ ht
    · exact command_advances (offerIllegal_command v s ▸ ht)
  · obtain rfl := Host.Outcome.next.inj ht
    exact advances_of_portPart rfl
  · obtain rfl := Host.Outcome.next.inj ht
    exact .refl s

/-! ### The host's actions keep OUT -/

theorem memRead_out (s : State) (a : Offset) : (s.memRead a).out = s.out := by
  obtain ⟨w, d, heq⟩ := memRead_eq s a
  rw [heq]

theorem actOutOfReset_out (a : HostAction) {s t : State} (ht : actOutOfReset a s = .next t) : s.out <+: t.out := by
  cases a with
  | read off =>
    obtain rfl := Host.Outcome.next.inj ht
    exact memRead_out s off ▸ List.prefix_rfl
  | write off v => exact (memWrite_advances ht).out
  | withdraw => rw [withdraw_next ht]
  | letRun pace => exact (resume_advances ht).out
  | _ => obtain rfl := Host.Outcome.next.inj ht; exact List.prefix_rfl

theorem actInReset_out (a : HostAction) {s t : State} (ht : actInReset a s = .next t) : s.out <+: t.out := by
  cases a with
  | read off =>
    obtain rfl := Host.Outcome.next.inj ht
    exact memRead_out s off ▸ List.prefix_rfl
  | withdraw => rw [withdraw_next ht]
  | _ => obtain rfl := Host.Outcome.next.inj ht; exact List.prefix_rfl

/-- No step takes back an emitted byte. -/
theorem step_out {s t : State} (ht : step s = .next t) : s.out <+: t.out := by
  cases hh : s.host with
  | nil =>
    rw [step_no_action hh] at ht
    cases hr : s.inReset with
    | true =>
      rw [runFree_asserted hr] at ht
      obtain rfl := Host.Outcome.next.inj ht
      exact List.prefix_rfl
    | false =>
      rw [runFree_released hr] at ht
      exact (resume_advances ht).out
  | cons a rest =>
    rw [step_action hh] at ht
    cases hr : s.inReset with
    | true =>
      rw [hostAct_asserted (by exact hr)] at ht
      exact (actInReset_out a ht :)
    | false =>
      rw [hostAct_released (by exact hr)] at ht
      exact (actOutOfReset_out a ht :)

/-! ### The statement -/

/-- Settles O45: a command only advances (`exec_advances`), and every host action keeps OUT. -/
theorem streamsOnlyMoveForward : Obligations.StreamsOnlyMoveForward := by
  refine ⟨fun i s t ht => ?_, fun _ _ ht => step_out ht⟩
  have h := exec_advances i ht
  exact ⟨h.inq, h.out⟩

end Sys2Proof.Machine
end

section
/-! PROOFS. The host's side of the streams, and the turns of a host program's statements (spec/20_memory.md R60, R61; 30_encoding.md R79, R80, R88). -/

namespace Sys2Proof.Machine

open Sys2Proof

/-! ### The streams' host side (R60, R61, R79, R80) -/

theorem tokenOfPort_kinds (d : Byte) : Token.ofPort ⟨0b00, d⟩ = .byte d ∧ Token.ofPort ⟨0b01, d⟩ = .endOfPass ∧
    Token.ofPort ⟨0b10, d⟩ = .fail ∧ Token.ofPort ⟨0b11, d⟩ = .fail := ⟨rfl, rfl, rfl, rfl⟩

section actions
variable {s : State} {rest : List HostAction} (hr : s.inReset = false)
include hr

theorem step_released {a : HostAction} (hh : s.host = a :: rest) : step s = actOutOfReset a { s with host := rest } :=
  (step_action hh).trans (hostAct_released (s := { s with host := rest }) hr a)

theorem step_feed {words : List PortWord} (hh : s.host = .feed words :: rest) :
    step s = .next { s with host := rest, inq := s.inq ++ words.map Token.ofPort } := step_released hr hh

theorem step_withdraw_idle (hh : s.host = .withdraw :: rest) (hb : s.busy = false) : step s = .next { s with host := rest, inq := [] } :=
  (step_released hr hh).trans (if_neg (by exact Bool.eq_false_iff.1 hb))

theorem step_withdraw_busy (hh : s.host = .withdraw :: rest) (hb : s.busy = true) : step s = .refused .withdrawWhileBusy :=
  (step_released hr hh).trans (if_pos hb)

theorem step_answer {bits : List (BitVec 1)} {later : Option (BitVec 1)} (hh : s.host = .answer bits later :: rest) :
    step s = .next { s with host := rest, sink := bits.map SinkAnswer.ofPort, sinkRest := later.map SinkAnswer.ofPort } :=
  step_released hr hh

/-- One action of a program's statement. -/
theorem performAll_released {a : HostAction} {later : List HostAction} {t : State} (h : actOutOfReset a { s with host := [] } = .next t) :
    performAll (a :: later) s = performAll later t :=
  performAll_next ((step_released (s := { s with host := [a] }) hr rfl).trans h)

end actions

/-! ### The turns of a statement (R88) -/

/-- The machine with the answers of SINK FAIL k. -/
def State.failingAt (s : State) (k : Nat) : State :=
  { s with host := [], sink := (failAt k).map SinkAnswer.ofPort, sinkRest := some .ok }

theorem performAll_sinkFail {s : State} (hr : s.inReset = false) (k : Nat) : performAll (Stmt.sinkFail k).turn s = .next (s.failingAt k) :=
  performAll_released hr rfl

/-- SINK FAIL k fails the k-th offer and no other. -/
theorem failingAt_answers (s : State) {k : Nat} (hk : 1 ≤ k) :
    (s.failingAt k).FailsAt (k - 1) ∧ ∀ j, k ≤ j → (s.failingAt k).answerAt j = some .ok := by
  have hsink : (s.failingAt k).sink = List.replicate (k - 1) .ok ++ [.fail] := (failAt_answers hk).1
  have hrest : (s.failingAt k).sinkRest = some .ok := rfl
  refine ⟨⟨fun j hj => ?_, ?_⟩, fun j hj => ?_⟩
  · simp [State.answerAt, hsink, List.getElem?_append, hj]
  · simp [State.answerAt, hsink]
  · have hlen : (List.replicate (k - 1) SinkAnswer.ok ++ [SinkAnswer.fail]).length ≤ j := by simp; omega
    rw [State.answerAt, hsink, List.getElem?_eq_none hlen, hrest]
    rfl

/-- A turn of WAIT lets the engine run, and reads STATUS. -/
theorem performAll_wait {s u : State} (hr : s.inReset = false) (hu : State.resume { s with host := [], pace := none } = .next u) :
    performAll Stmt.wait.turn s = .next { u with busData := u.statusWord } := by
  have hadv := resume_advances hu
  have hhost : { u with host := [] } = u := by rw [← show u.host = [] from hadv.host]
  have hread : actOutOfReset (.read Reg.status.offset) { u with host := [] } = .next { u with busData := u.statusWord } := by
    rw [hhost]
    exact congrArg Host.Outcome.next (memRead_exact (r := .status) (.inr rfl))
  exact (performAll_released (a := .letRun none) hr hu).trans (performAll_released (hadv.inReset.trans hr) hread)

theorem performAll_read {s : State} (hr : s.inReset = false) (hb : s.busy = false) (reg : Reg) (expected : Option Word) :
    performAll (Stmt.read reg expected).turn s = .next { s with host := [], busData := s.readReg reg } :=
  performAll_released hr (congrArg Host.Outcome.next (memRead_exact (.inl hb)))

section run
variable {r : ProgramRun} {later : List Stmt}

theorem ProgramRun.step_sinkFail (hr : r.machine.inReset = false) {k : Nat} (hk : 1 ≤ k) (h : r.todo = .sinkFail k :: later) :
    ∃ t, r.step = .next { r with machine := t, todo := later } ∧ t.FailsAt (k - 1) ∧ (∀ j, k ≤ j → t.answerAt j = some .ok) ∧
      t = { r.machine with host := [], sink := t.sink, sinkRest := t.sinkRest } :=
  have ⟨hfail, hok⟩ := failingAt_answers r.machine hk
  ⟨_, ProgramRun.step_turn h (performAll_sinkFail hr k), hfail, hok, rfl⟩

theorem ProgramRun.step_wait (hr : r.machine.inReset = false) {u : State} (h : r.todo = .wait :: later)
    (hu : State.resume { r.machine with host := [], pace := none } = .next u) : r.step = .next { r with
      machine := { u with busData := u.statusWord }, todo := if u.busy then .wait :: later else later } := by
  have hbusy : u.statusWord[0] = u.busy := (statusWord_bits u).1
  rw [ProgramRun.step_turn h (performAll_wait hr hu)]
  cases hb : u.busy <;> simp [ProgramRun.afterTurn, Stmt.finished, Stmt.agrees, Stmt.markAfter, hbusy, hb]

theorem ProgramRun.step_read (hr : r.machine.inReset = false) {reg : Reg} {v : Word} (h : r.todo = .read reg (some v) :: later)
    (hb : r.machine.busy = false) : r.step = .next { r with
      machine := { r.machine with host := [], busData := r.machine.readReg reg }, todo := later
      mismatches := if r.machine.readReg reg = v then r.mismatches else r.mismatches ++ [.read reg (some v)] } := by
  rw [ProgramRun.step_turn h (performAll_read hr hb reg (some v))]
  simp [ProgramRun.afterTurn, Stmt.finished, Stmt.agrees, Stmt.markAfter]

theorem ProgramRun.step_expectOut {bytes : List Byte} (h : r.todo = .expectOut bytes :: later) : r.step = .next { r with
      todo := later, mark := r.machine.out.length
      mismatches := if r.machine.out.drop r.mark = bytes then r.mismatches else r.mismatches ++ [.expectOut bytes] } := by
  rw [ProgramRun.step_turn h (performAll_nil _)]
  simp [ProgramRun.afterTurn, Stmt.finished, Stmt.agrees, Stmt.markAfter]

end run

/-- Settles O55: one step for each host action, one turn for each statement. -/
theorem hostStreamsAndPrograms : Obligations.HostStreamsAndPrograms :=
  ⟨tokenOfPort_kinds,
    fun _ _ hr => ⟨fun _ => step_feed hr, step_withdraw_idle hr, step_withdraw_busy hr, fun _ _ => step_answer hr⟩,
    fun _ _ hr => ⟨fun _ => ProgramRun.step_sinkFail hr, fun _ => ProgramRun.step_wait hr, fun _ _ => ProgramRun.step_read hr,
      fun _ => ProgramRun.step_expectOut⟩⟩

end Sys2Proof.Machine
end

section
/-! PROOFS. The decoder and the encoder of command words (spec/30_encoding.md R73 to R78), and the word that is no command (R75, R77). -/

namespace Sys2Proof.Machine

open Sys2Proof Sys2Proof.Laws

/-! ### Words -/

/-- The opcodes of R74, written once as a list and once as a map. -/
theorem opcodes_eq_keys : CommandWord.opcodes = opcodeMap.map Prod.fst := rfl

theorem mem_opcodes (op : Byte) : op ∈ CommandWord.opcodes ↔ ∃ i, opcodeOf i = op := by
  simp [opcodes_eq_keys, mem_opcodeMap, eq_comm]

/-- Every row is found by its opcode: no earlier row has it. -/
theorem lookup_opcodeOf (i : Instr) : opcodeMap.lookup (opcodeOf i) = some i := by cases i <;> rfl

theorem lookup_opcodeMap {op : Byte} {i : Instr} : opcodeMap.lookup op = some i ↔ op = opcodeOf i := by
  refine ⟨fun h => ?_, fun h => h ▸ lookup_opcodeOf i⟩
  obtain ⟨before, after, hrows, -⟩ := List.lookup_eq_some_iff.1 h
  exact (mem_opcodeMap op i).1 (by simp [hrows])

/-- R75: the two checks, and the row. -/
theorem decode_eq_command {w : Word} {i : Instr} : decode w = .command i ↔ rsvdField w = 0 ∧ opcodeField w = opcodeOf i := by
  rw [← lookup_opcodeMap]
  unfold decode
  split
  next hr => exact ⟨nofun, fun h => absurd h.1 hr⟩
  next hr =>
    rw [and_iff_right (not_not.1 hr)]
    cases opcodeMap.lookup (opcodeField w) <;> simp

/-- A word is its two fields (R73). -/
theorem eq_encode_iff {w : Word} {i : Instr} : w = encode i ↔ rsvdField w = 0 ∧ opcodeField w = opcodeOf i := by
  constructor
  · rintro rfl
    cases i <;> decide
  · rintro ⟨hr, ho⟩
    rw [encode, ← ho]
    simp only [rsvdField, opcodeField, BitVec.toNat_eq, BitVec.extractLsb'_toNat, BitVec.toNat_setWidth, BitVec.ofNat_eq_ofNat,
      BitVec.toNat_ofNat, Nat.shiftRight_eq_div_pow] at hr ⊢
    omega

/-- Only its own word decodes to a command. -/
theorem decode_eq_command_iff_encode {w : Word} {i : Instr} : decode w = .command i ↔ w = encode i :=
  decode_eq_command.trans eq_encode_iff.symm

theorem wellFormed_iff_decodes (w : Word) : CommandWord.wellFormed w = true ↔ ∃ i, decode w = .command i := by
  simp only [decode_eq_command, exists_and_left, CommandWord.wellFormed, CommandWord.rsvdZero, CommandWord.opcodeListed, Bool.and_eq_true,
    beq_iff_eq, List.contains_iff_mem, mem_opcodes]
  exact and_congr_right fun _ => exists_congr fun _ => eq_comm

/-- A word that fails a check of R75 does not decode. -/
theorem decode_illegal {w : Word} (h : rsvdField w ≠ 0 ∨ ¬ ∃ i, opcodeOf i = opcodeField w) : ∃ why, decode w = .illegal why := by
  cases hd : decode w with
  | illegal why => exact ⟨why, rfl⟩
  | command i =>
    obtain ⟨hr, ho⟩ := decode_eq_command.1 hd
    exact (h.elim (absurd hr) fun hno => hno ⟨i, ho.symm⟩).elim

/-! ### Byte lanes (R59) -/

/-- The four byte lanes of a word, lane 0 first. -/
def lanesOfWord (w : Word) : List Byte := [w.extractLsb' 0 8, w.extractLsb' 8 8, w.extractLsb' 16 8, w.extractLsb' 24 8]

theorem encodeBytes_eq_lanes (i : Instr) : encodeBytes i = lanesOfWord (encode i) := rfl

theorem wordOfLanes_toNat (b0 b1 b2 b3 : Byte) :
    (wordOfLanes b0 b1 b2 b3).toNat = b0.toNat + 2 ^ 8 * (b1.toNat + 2 ^ 8 * (b2.toNat + 2 ^ 8 * b3.toNat)) := by
  have append : ∀ {n : Nat} (x : BitVec n) (b : Byte), (x ++ b).toNat = b.toNat + 2 ^ 8 * x.toNat := fun x b => by
    rw [BitVec.toNat_append, ← Nat.shiftLeft_add_eq_or_of_lt b.isLt, Nat.shiftLeft_eq]
    omega
  show (b3 ++ b2 ++ b1 ++ b0 : BitVec (8 + 8 + 8 + 8)).toNat = _
  rw [append, append, append]

theorem wordOfLanes_lanes (w : Word) :
    wordOfLanes (w.extractLsb' 0 8) (w.extractLsb' 8 8) (w.extractLsb' 16 8) (w.extractLsb' 24 8) = w := by
  apply BitVec.eq_of_toNat_eq
  simp only [wordOfLanes_toNat, BitVec.extractLsb'_toNat, Nat.shiftRight_eq_div_pow]
  omega

theorem lanes_wordOfLanes (b0 b1 b2 b3 : Byte) : lanesOfWord (wordOfLanes b0 b1 b2 b3) = [b0, b1, b2, b3] := by
  have lane : ∀ (k : Nat) (b : Byte), (wordOfLanes b0 b1 b2 b3).toNat / 2 ^ k % 2 ^ 8 = b.toNat →
      (wordOfLanes b0 b1 b2 b3).extractLsb' k 8 = b := fun k b h => by
    rw [BitVec.toNat_eq, BitVec.extractLsb'_toNat, Nat.shiftRight_eq_div_pow, h]
  have := b0.isLt
  have := b1.isLt
  have := b2.isLt
  have := b3.isLt
  rw [lanesOfWord, lane 0 b0, lane 8 b1, lane 16 b2, lane 24 b3] <;> rw [wordOfLanes_toNat] <;> omega

theorem decodeBytes_lanes (w : Word) : decodeBytes (lanesOfWord w) = decode w := congrArg decode (wordOfLanes_lanes w)

/-- R78: bytes decode to a command only when they are the lanes of a word that does. -/
theorem lanes_of_decodeBytes {bytes : List Byte} {i : Instr} (h : decodeBytes bytes = .command i) :
    ∃ w, bytes = lanesOfWord w ∧ decode w = .command i := by
  unfold decodeBytes at h
  split at h
  · exact ⟨_, (lanes_wordOfLanes _ _ _ _).symm, h⟩
  · cases h

theorem decodeBytes_eq_command_iff {bytes : List Byte} {i : Instr} : decodeBytes bytes = .command i ↔ bytes = encodeBytes i := by
  rw [encodeBytes_eq_lanes]
  constructor
  · intro h
    obtain ⟨w, rfl, hd⟩ := lanes_of_decodeBytes h
    rw [decode_eq_command_iff_encode.1 hd]
  · rintro rfl
    rw [decodeBytes_lanes, decode_eq_command_iff_encode]

/-- Settles O53: a command's word, and its bytes, are the only ones that decode to it. -/
theorem decodeEncodeAgree : Obligations.DecodeEncodeAgree :=
  ⟨fun _ _ => ⟨decode_eq_command_iff_encode.2 rfl, decodeBytes_eq_command_iff.2 rfl⟩, fun _ _ => decode_eq_command_iff_encode.1,
    fun _ _ => decodeBytes_eq_command_iff.1, wellFormed_iff_decodes⟩

/-- Settles O52: fifteen words of commands, one word with RSVD != 0 and one whose opcode is in no row. -/
theorem tableWordsDecode : Obligations.TableWordsDecode := by
  have encoded : ∀ i, decode (encode i) = .command i := fun _ => decode_eq_command_iff_encode.2 rfl
  exact ⟨encoded .nop, encoded .softReset, encoded .clearErr, encoded .freqClear, encoded .freqCount, encoded .heapBuild, encoded .treeStep,
    encoded .treeBuild, encoded .codesDerive, encoded .treeSerialize, encoded .treeDeserialize, encoded .pack, encoded .unpack,
    encoded .compress, encoded .decompress, rfl, rfl⟩

/-! ### The CMD write of an illegal word (R75, R77, R150) -/

theorem offerIllegal_ready (w : Word) {s : State} (h : s.Ready) :
    offerIllegal w s = .next (s.failedWith (opcodeField w) .badCmd (opcodeField w)) := by
  obtain ⟨hq, he, hp⟩ := h
  rw [offerIllegal, command_ready hq he hp, illegalBody, settle_raised_free _ _ _ (by simp [hp])]
  rfl

/-- Settles O7. -/
theorem illegalWordRaisesBadCmd : Obligations.IllegalWordRaisesBadCmd := by
  refine ⟨fun s w hs h => ?_, fun s w i hr ho => ?_⟩
  · obtain ⟨why, hd⟩ := decode_illegal (w := w) h
    rw [memWrite_cmd, writeCmd_illegal hd, offerIllegal_ready w hs]
    rfl
  · rw [memWrite_cmd, writeCmd_command (decode_eq_command.2 ⟨hr, ho.symm⟩)]

end Sys2Proof.Machine
end

section
/-! PROOFS. On every token sequence ParseHeader ends as reading with the count P of spec/30_encoding.md R83 ends (45_tree_codec.md R125 to R128).

The idea: the subtrees still to read are the holes of the tree read so far (`State.holes`), so P is their number once the root is read. -/

namespace Sys2Proof.Machine

open Sys2Proof

/-! ### Reading by counting, from any point -/

/-- `headerEnd` from a point of ParseHeader. `headerEnd` reads a leaf's tag and value together; ParseHeader can stand between them. -/
def headerFrom : ParsePoint → Nat → Nat → List Token → HeaderEnd
  | .first, p, ints, ts => headerEnd true p ints ts
  | .tag _, p, ints, ts => headerEnd false p ints ts
  | .value _, _, _, [] => .starved
  | .value _, _, _, .fail :: rest => .bad .srcIo 0 rest
  | .value _, _, _, .endOfPass :: rest => .bad .truncated 0 rest
  | .value _, p, ints, .byte _ :: rest => if p = 1 then .complete rest else headerEnd false (p - 1) ints rest

/-- Nothing has been read. -/
def ParsePoint.isFirst : ParsePoint → Bool
  | .first => true
  | .tag _ | .value _ => false

theorem headerFrom_nil (pt : ParsePoint) (p ints : Nat) : headerFrom pt p ints [] = .starved := by cases pt <;> rfl

theorem headerFrom_fail (pt : ParsePoint) (p ints : Nat) (rest : List Token) : headerFrom pt p ints (.fail :: rest) = .bad .srcIo 0 rest := by
  cases pt <;> simp [headerFrom, headerEnd]

theorem headerFrom_endOfPass (pt : ParsePoint) (p ints : Nat) (rest : List Token) :
    headerFrom pt p ints (.endOfPass :: rest) = if pt.isFirst then .empty rest else .bad .truncated 0 rest := by
  cases pt <;> simp [headerFrom, headerEnd, ParsePoint.isFirst]

/-- A byte where a tag is expected. -/
theorem headerEnd_byte (r : Idx) (first : Bool) (p ints : Nat) (b : Byte) (rest : List Token) : headerEnd first p ints (.byte b :: rest) =
    if b = Config.tagInt then if ints = 255 then .bad .treeTooLarge 0 rest else headerEnd false (p + 1) (ints + 1) rest
    else if b = Config.tagLeaf then if first then .bad .degenerate 0 rest else headerFrom (.value r) p ints rest
    else .bad .badTag b rest := by
  rcases rest with _ | ⟨_ | _ | _, rest⟩ <;> rfl

/-! ### The count of holes -/

/-- What ParseHeader may change before it sets ROOT or EMPTY_ART, set aside. -/
def State.lessHeader (s : State) : State := { s with node := .fill 255 .clear, nextInt := 0, stack := [], inq := [], inCount := 0 }

/-- t is s with a part of a header read: m holes, each in an internal slot, and at most d nodes on the stack. -/
structure State.Awaits (s t : State) (m d : Nat) : Prop where
  frame : t.lessHeader = s.lessHeader
  holes : t.holes.length = m
  internal : ∀ x ∈ t.holes, ∃ j, slot? x.1 = some j
  depth : t.stack.length ≤ d

/-- The number of holes when p subtrees are still to read: before the root there is no tree to have one. -/
def ParsePoint.holeCount : ParsePoint → Nat → Nat
  | .first, _ => 0
  | .tag _, p | .value _, p => p

/-- R83: P is 1 before the root; after it, and after `ints` TAG_INT bytes, P is not 0, and the root is the first internal slot. -/
def ParsePoint.Counts : ParsePoint → Nat → Nat → Prop
  | .first, p, ints => p = 1 ∧ ints = 0
  | .tag r, p, _ | .value r, p, _ => r = Config.firstInternal ∧ 0 < p

/-- ParseHeader, started in s, stands at pt with p subtrees to read after `ints` TAG_INT bytes. -/
structure State.Reads (s t : State) (pt : ParsePoint) (p ints : Nat) : Prop where
  awaits : s.Awaits t (pt.holeCount p) ints
  counts : pt.Counts p ints
  slots : t.nextInt.toNat = 256 + ints

/-- ParseHeader, started in s, ends as the count says. -/
inductive State.ReadsTo (s : State) : HeaderEnd → Run → Prop
  | starved (pos : Pos) (t : State) : t.lessHeader = s.lessHeader → t.inq = [] → s.ReadsTo .starved (.wait pos [] t)
  | empty (t : State) : t.lessHeader = s.lessHeader → s.ReadsTo (.empty t.inq) (.ret { t with emptyArt := true })
  | bad (e : ErrorKind) (info : Byte) (t : State) : t.lessHeader = s.lessHeader → s.ReadsTo (.bad e info t.inq) (.raised e info t)
  | complete (t : State) : t.lessHeader = s.lessHeader → s.ReadsTo (.complete t.inq) (.ret { t with root := Config.firstInternal })

/-- One iteration goes on, or ends, as the count says of the whole rest of IN. -/
def LoopStep.Follows (s : State) (ts : List Token) (h : HeaderEnd) : LoopStep ParsePoint → Prop
  | .more pt t => t.inq = ts ∧ ∃ p ints, s.Reads t pt p ints ∧ h = headerFrom pt p ints ts
  | .stop r => s.ReadsTo h r

section reading
variable {s t : State} {pt : ParsePoint} {p ints d m : Nat} {n : Idx}

theorem State.Awaits.pace (h : s.Awaits t m d) (hp : s.pace = none) : t.pace = none := (congrArg State.pace h.frame :).trans hp

theorem holes_eq_nil_iff : t.holes = [] ↔ t.stack = [] := by
  cases hs : t.stack with
  | nil => simp [State.holes, hs]
  | cons e rest => cases hside : e.side <;> simp [State.holes, hs, StackEntry.holes, hside]

/-- The first hole can be filled. -/
theorem attach_of_hole (h : t.holes ≠ []) (hi : ∀ x ∈ t.holes, ∃ j, slot? x.1 = some j) (n : Idx) : ∃ u, t.attach n = .ok u := by
  cases hs : t.stack with
  | nil => exact absurd (holes_eq_nil_iff.2 hs) h
  | cons e rest =>
    obtain ⟨j, hj⟩ := hi (e.node, e.side) (by cases hside : e.side <;> simp [State.holes, hs, StackEntry.holes, hside])
    cases hside : e.side <;> simp [State.attach, State.setChild, hs, hside, hj]

/-- A complete node fills one hole, or is the root. -/
theorem parseNode_fills (h : s.Awaits t (pt.holeCount p) d) (hc : pt.Counts p ints) (hn : pt.isFirst = true → n = Config.firstInternal) :
    ∃ u, parseNode pt n t = parseEnd Config.firstInternal n u ∧ s.Awaits u (p - 1) d ∧ u.nextInt = t.nextInt ∧ u.inq = t.inq := by
  have later : ∀ r, r = Config.firstInternal ∧ 0 < p → s.Awaits t p d → ∃ u, parseNode (.tag r) n t = parseEnd Config.firstInternal n u ∧
      s.Awaits u (p - 1) d ∧ u.nextInt = t.nextInt ∧ u.inq = t.inq := by
    rintro r ⟨rfl, hp⟩ ⟨hframe, hholes, hint, hdepth⟩
    obtain ⟨u, hu⟩ := attach_of_hole (List.ne_nil_of_length_pos (hholes ▸ hp)) hint n
    obtain ⟨x, j, -, hx, hueq, hlen⟩ := attach_ok hu
    refine ⟨u, by simp [parseNode, hu], ⟨?_, ?_, fun y hy => hint y (hx ▸ List.mem_cons_of_mem _ hy), hlen.trans hdepth⟩, by rw [hueq],
      by rw [hueq]⟩
    · rw [hueq]
      exact hframe
    · rw [← hholes, hx, List.length_cons, Nat.add_sub_cancel]
  cases pt with
  | first =>
    obtain ⟨rfl, -⟩ := hc
    exact ⟨t, by rw [parseNode, hn rfl], h, rfl, rfl⟩
  | tag r => exact later r hc h
  | value r => exact later r hc h

/-- After a leaf, P has fallen by 1; at 0 the header is complete (R83). -/
theorem parseEnd_leaf_follows (hp : s.pace = none) (h : s.Awaits t (p - 1) ints) (hpos : 0 < p) (hslots : t.nextInt.toNat = 256 + ints)
    (hn : isLeaf n = true) : (parseEnd Config.firstInternal n t).Follows s t.inq
      (if p = 1 then .complete t.inq else headerEnd false (p - 1) ints t.inq) := by
  rw [parseEnd, if_pos hn]
  have hstack : t.stack = [] ↔ p = 1 := by
    rw [← holes_eq_nil_iff, ← List.length_eq_zero_iff, h.holes]
    omega
  cases hs : t.stack with
  | nil =>
    rw [if_pos (hstack.1 hs)]
    simp only [finishHeader_free (h.pace hp)]
    exact .complete t h.frame
  | cons e rest =>
    have hne : p ≠ 1 := fun h1 => by simp [hstack.2 h1] at hs
    rw [if_neg hne]
    exact ⟨rfl, p - 1, ints, ⟨h, ⟨rfl, by omega⟩, hslots⟩, rfl⟩

/-- After an internal node, P has grown by 1 (R83): the node fills a hole and brings two. -/
theorem parseEnd_node_follows (h : s.Awaits t (p - 1) ints) (hpos : 0 < p) (hslots : t.nextInt.toNat = 256 + (ints + 1)) {j : Fin 255}
    (hn : slot? n = some j) : (parseEnd Config.firstInternal n t).Follows s t.inq (headerEnd false (p + 1) (ints + 1) t.inq) := by
  have hroom : t.stack.length < 256 := by
    have hd := h.depth
    have : t.nextInt.toNat < 512 := t.nextInt.isLt
    omega
  rw [parseEnd, if_neg (by simp [isLeaf_of_slot hn]), State.push_ok.2 ⟨hroom, rfl⟩]
  refine ⟨rfl, p + 1, ints + 1, ⟨⟨h.frame, ?_, ?_, Nat.succ_le_succ h.depth⟩, ⟨rfl, Nat.succ_pos p⟩, hslots⟩, rfl⟩
  · have hholes : (t.holes.length + 1) + 1 = p + 1 := by rw [h.holes]; omega
    exact hholes
  · intro x hx
    rcases List.mem_cons.1 hx with rfl | hx
    · exact ⟨j, hn⟩
    · rcases List.mem_cons.1 hx with rfl | hx
      · exact ⟨j, hn⟩
      · exact h.internal x hx

theorem ParsePoint.Counts.pos (h : pt.Counts p ints) : 0 < p := by
  cases pt with
  | first => exact h.1 ▸ Nat.one_pos
  | tag r | value r => exact h.2

theorem ParsePoint.Counts.ints_of_isFirst (h : pt.Counts p ints) (hf : pt.isFirst = true) : ints = 0 := by
  cases pt with
  | first => exact h.2
  | tag r | value r => cases hf

theorem nextInt_eq_nil_iff (hslots : t.nextInt.toNat = 256 + ints) : t.nextInt = Config.nil ↔ ints = 255 := by
  rw [BitVec.toNat_eq, hslots, show Config.nil.toNat = 511 from rfl]
  omega

/-- Giving out a slot touches no hole. -/
theorem State.Awaits.alloc {v : State} {nd : Node} (h : s.Awaits t m d) (hv : t.alloc nd = .ok v) :
    s.Awaits v m d ∧ v.nextInt = t.nextInt + 1 ∧ v.inq = t.inq := by
  obtain ⟨j, -, rfl⟩ := State.alloc_ok.1 hv
  exact ⟨⟨h.frame, h.holes, h.internal, h.depth⟩, rfl, rfl⟩

/-- TAG_INT: the 256th is an error, and any other adds a subtree to read (R83). -/
theorem parseInternal_follows (h : s.Reads t pt p ints) :
    (parseInternal pt t).Follows s t.inq (if ints = 255 then .bad .treeTooLarge 0 t.inq else headerEnd false (p + 1) (ints + 1) t.inq) := by
  obtain ⟨hawaits, hcounts, hslots⟩ := h
  unfold parseInternal
  simp only [nextInt_eq_nil_iff hslots]
  split
  next => exact .bad _ _ t hawaits.frame
  next hints =>
    have hlt : t.nextInt.toNat < 512 := t.nextInt.isLt
    have hj : slot? t.nextInt = some ⟨ints, by omega⟩ := slot?_eq_some_iff.2 hslots
    obtain ⟨v, hv⟩ : ∃ v, t.alloc ⟨true, Config.nil, Config.nil, 0⟩ = .ok v := ⟨_, State.alloc_ok.2 ⟨_, hj, rfl⟩⟩
    obtain ⟨hva, hvn, hvi⟩ := hawaits.alloc hv
    have hroot : pt.isFirst = true → t.nextInt = Config.firstInternal := fun hf =>
      BitVec.eq_of_toNat_eq (by rw [hslots, hcounts.ints_of_isFirst hf]; rfl)
    obtain ⟨u, hu, hua, hun, hui⟩ := parseNode_fills hva hcounts hroot
    have hsucc : u.nextInt.toNat = 256 + (ints + 1) := by
      rw [hun, hvn, (nextInt_succ hj).1, hslots, Nat.add_assoc]
    have := parseEnd_node_follows hua hcounts.pos hsucc hj
    rw [← hu, hui, hvi] at this
    simpa only [hv] using this

theorem parseTag_follows (h : s.Reads t pt p ints) (tag : Byte) :
    (parseTag pt tag t).Follows s t.inq (headerEnd pt.isFirst p ints (.byte tag :: t.inq)) := by
  rw [headerEnd_byte Config.firstInternal]
  unfold parseTag
  split
  · exact parseInternal_follows h
  · split
    · cases pt with
      | first => exact .bad _ _ t h.awaits.frame
      | tag r | value r =>
        obtain ⟨rfl, hpos⟩ := h.counts
        exact ⟨rfl, p, ints, ⟨h.awaits, ⟨rfl, hpos⟩, h.slots⟩, rfl⟩
    · exact .bad _ _ t h.awaits.frame

/-- A leaf's value fills a hole (R125). -/
theorem parseValue_follows (hp : s.pace = none) {r : Idx} (h : s.Reads t (.value r) p ints) (b : Byte) :
    (parseNode (.value r) (leafSlot b) t).Follows s t.inq (headerFrom (.value r) p ints (.byte b :: t.inq)) := by
  obtain ⟨u, hu, hua, hun, hui⟩ := parseNode_fills (n := leafSlot b) h.awaits h.counts nofun
  have := parseEnd_leaf_follows hp hua h.counts.pos (hun ▸ h.slots) (isLeaf_leafSlot b)
  rwa [← hu, hui] at this

theorem lessHeader_consume (hp : t.pace = none) (tok : Token) (ts : List Token) : (t.consume tok ts).lessHeader = t.lessHeader := by
  cases tok <;> simp only [State.consume, State.tick_none hp] <;> rfl

theorem State.Reads.consume (h : s.Reads t pt p ints) (hp : s.pace = none) (tok : Token) (ts : List Token) :
    s.Reads (t.consume tok ts) pt p ints := by
  have hh : (t.consume tok ts).holes = t.holes := by rw [State.holes, State.consume_stack, State.holes]
  have hframe := (lessHeader_consume (h.awaits.pace hp) tok ts).trans h.awaits.frame
  obtain ⟨⟨-, hholes, hint, hdepth⟩, hcounts, hslots⟩ := h
  exact ⟨⟨hframe, hh ▸ hholes, hh ▸ hint, by simpa using hdepth⟩, hcounts, by simpa using hslots⟩

theorem parseToken_follows (hp : s.pace = none) (h : s.Reads t pt p ints) (tok : Token) :
    (parseToken pt tok t).Follows s t.inq (headerFrom pt p ints (tok :: t.inq)) := by
  cases tok with
  | fail =>
    rw [headerFrom_fail]
    exact .bad _ _ t h.awaits.frame
  | endOfPass =>
    rw [headerFrom_endOfPass]
    cases pt with
    | first => exact .empty t h.awaits.frame
    | tag r | value r => exact .bad _ _ t h.awaits.frame
  | byte b =>
    cases pt with
    | first | tag r => exact parseTag_follows h b
    | value r => exact parseValue_follows hp h b

/-- By induction over the tokens of IN. -/
theorem parseLoop_follows (hp : s.pace = none) (ts : List Token) (h : s.Reads t pt p ints) (hq : t.inq = ts) :
    s.ReadsTo (headerFrom pt p ints ts) (overTokens Pos.parse parseToken ts pt t) := by
  induction ts generalizing t pt p ints with
  | nil =>
    rw [headerFrom_nil]
    exact .starved _ t h.awaits.frame hq
  | cons tok ts ih =>
    have hstep := parseToken_follows hp (h.consume hp tok ts) tok
    rw [State.consume_inq] at hstep
    have hfree : t.held = false := by simp [h.awaits.pace hp]
    cases hb : parseToken pt tok (t.consume tok ts) with
    | more pt' t' =>
      rw [hb] at hstep
      obtain ⟨hq', p', ints', h', he⟩ := hstep
      rw [overTokens_more hfree hb, he]
      exact ih h' hq'
    | stop r =>
      rw [hb] at hstep
      rw [overTokens_stop hfree hb]
      exact hstep

end reading

/-- The state TREE_DESERIALIZE starts to read in (R124). -/
def State.beforeHeader (s : State) : State := { s.discardTree with stack := [] }

theorem treeDeserializeBody_follows {s : State} (hp : s.pace = none) :
    s.beforeHeader.ReadsTo (headerEnd true 1 0 s.inq) (treeDeserializeBody s) :=
  parseLoop_follows (s := s.beforeHeader) (pt := .first) hp s.inq ⟨⟨rfl, rfl, nofun, le_rfl⟩, ⟨rfl, rfl⟩, rfl⟩ rfl

theorem exec_treeDeserialize_ready {s : State} (h : s.Ready) : exec .treeDeserialize s =
    settle 0x51 (treeDeserializeBody (s.accept 0x51 (.enter .treeDeserialize) [])) := command_ready h.1 h.2.1 h.2.2

/-- Settles O30: the body ends as the count says, and what it leaves at ROOT is a tree (`treeDeserializeBody_ends`). -/
theorem treeDeserializeFollowsCount : Obligations.TreeDeserializeFollowsCount := by
  intro s hs
  rw [exec_treeDeserialize_ready hs]
  obtain ⟨-, -, hp⟩ := hs
  have hbody := treeDeserializeBody_follows (s := s.accept 0x51 (.enter .treeDeserialize) []) hp
  have htree := treeDeserializeBody_ends (s.accept 0x51 (.enter .treeDeserialize) [])
  have hpace : ∀ t : State, t.lessHeader = (s.accept 0x51 (.enter .treeDeserialize) []).beforeHeader.lessHeader → t.pace = none := fun t hf =>
    (congrArg State.pace hf :).trans hp
  rw [State.accept_inq] at hbody
  generalize treeDeserializeBody (s.accept 0x51 (.enter .treeDeserialize) []) = r at hbody htree
  generalize headerEnd true 1 0 s.inq = e at hbody
  cases hbody with
  | starved pos t hf hin => exact ⟨_, rfl, rfl, hin, (congrArg State.root hf :)⟩
  | empty t hf => exact ⟨_, settle_ret_free _ (hpace t hf), rfl, rfl, rfl, (congrArg State.err hf :), rfl, (congrArg State.root hf :)⟩
  | bad e info t hf =>
    exact ⟨_, settle_raised_free _ _ _ (hpace t hf), rfl, (congrArg State.done hf :), rfl, rfl, (congrArg State.root hf :),
      (congrArg State.live hf :), (congrArg State.out hf :)⟩
  | complete t hf =>
    have hroot : State.TreesOk (State.complete { t with root := Config.firstInternal }) := htree.2.congr rfl
    exact ⟨_, settle_ret_free _ (hpace t hf), rfl, rfl, (congrArg State.err hf :), rfl, rfl, hroot.root.resolve_left nofun⟩

end Sys2Proof.Machine
end

section
/-! PROOFS. The lifecycle of a command word at CMD, the STATUS write and the control commands (spec/40_control.md R91 to R96, R98 to R100). -/

namespace Sys2Proof.Machine

open Sys2Proof

theorem State.held_eq_false_iff {s : State} : s.held = false ↔ s.pace ≠ some 0 := Bool.eq_false_iff.trans (not_congr State.held_iff)

/-! ### The two words that have a rule of their own, and all the others (R91, R94, R95) -/

theorem writeCmd_softReset (s : State) : writeCmd 0x00000001 s = exec .softReset s := writeCmd_command rfl s
theorem writeCmd_clearErr (s : State) : writeCmd 0x00000002 s = exec .clearErr s := writeCmd_command rfl s

/-- Every word but those of SOFT_RESET and CLEAR_ERR, legal or not, is offered in the same way. -/
theorem writeCmd_offers {w : Word} (hr : w ≠ 0x00000001) (hc : w ≠ 0x00000002) (s : State) : ∃ c todo,
    writeCmd w s = command (opcodeField w) c todo (fun u => (stageBody c u).chain todo) s := by
  cases hd : decode w with
  | illegal why => exact ⟨_, _, (writeCmd_illegal hd s).trans (offerIllegal_command w s)⟩
  | command i =>
    have hw : w = encode i := decode_eq_command_iff_encode.1 hd
    obtain ⟨c, todo, -, heq⟩ := exec_command (i := i) (by rintro rfl; exact hr hw) (by rintro rfl; exact hc hw) s
    exact ⟨c, todo, by rw [writeCmd_command hd, heq, (decode_eq_command.1 hd).2]⟩

theorem exec_softReset_busy {s : State} (h : s.busy = true) : exec .softReset s = .next s.softReset := if_pos h
theorem exec_softReset_idle {s : State} (h : s.busy = false) :
    exec .softReset s = launch 0x01 .softReset [] softResetBody s := if_neg (Bool.eq_false_iff.1 h)
theorem exec_clearErr_busy {s : State} (h : s.busy = true) : exec .clearErr s = .next s.reject := if_pos h
theorem exec_clearErr_idle {s : State} (h : s.busy = false) :
    exec .clearErr s = launch 0x02 .clearErr [] clearErrBody s := if_neg (Bool.eq_false_iff.1 h)

/-- R94: while BUSY = 1 only SOFT_RESET is not dropped. -/
theorem writeCmd_busy {s : State} {w : Word} (hb : s.busy = true) (hw : w ≠ 0x00000001) : writeCmd w s = .next s.reject := by
  by_cases hc : w = 0x00000002
  · rw [hc, writeCmd_clearErr, exec_clearErr_busy hb]
  · obtain ⟨c, todo, heq⟩ := writeCmd_offers hw hc s
    rw [heq, command_rejected (.inl hb)]

/-- R92: with BUSY = 0 and ERR = 0 every word is accepted. -/
theorem writeCmd_launches {s : State} (hb : s.busy = false) (he : s.errSet = false) (w : Word) : ∃ c todo body,
    writeCmd w s = launch (opcodeField w) c todo body s := by
  by_cases hr : w = 0x00000001
  · exact ⟨_, _, _, by rw [hr, writeCmd_softReset, exec_softReset_idle hb]; rfl⟩
  by_cases hc : w = 0x00000002
  · exact ⟨_, _, _, by rw [hc, writeCmd_clearErr, exec_clearErr_idle hb]; rfl⟩
  obtain ⟨c, todo, heq⟩ := writeCmd_offers hr hc s
  exact ⟨c, todo, _, heq.trans (command_accepted hb he)⟩

theorem statusWord_reset_done : State.statusWord { State.reset with done := true } = 0x00000002 := by decide

/-! ### The statements -/

/-- Settles O3: a running command is aborted at once; an idle block, held before the first step or not, runs the body. -/
theorem softResetFromAnyState : Obligations.SoftResetFromAnyState := by
  intro s
  refine ⟨fun _ => statusWord_reset_done, exec_softReset_busy, fun hb hp => ?_, fun hq hp => ?_⟩
  · rw [exec_softReset_idle hb, launch_runs (State.held_eq_false_iff.2 hp)]
    rfl
  · rw [State.resume_running hq, resumeAt, State.held_eq_false_iff.2 hp]
    rfl

/-- Settles O4: while busy CLEAR_ERR is dropped as every other word is. -/
theorem cmdWriteWhileBusy : Obligations.CmdWriteWhileBusy := by
  intro s w hb
  rw [memWrite_cmd, memWrite_cmd]
  exact ⟨writeCmd_busy hb, (writeCmd_softReset s).trans (exec_softReset_busy hb)⟩

/-- Settles O5: the two words that are not offered as the others are not checked against ERR. -/
theorem cmdWriteWhileError : Obligations.CmdWriteWhileError := by
  intro s w hq he
  have hb := State.busy_idle hq
  rw [memWrite_cmd]
  refine ⟨fun hr hc => ?_, ?_, ?_⟩
  · obtain ⟨c, todo, heq⟩ := writeCmd_offers hr hc s
    exact heq.trans (command_rejected (.inr (State.errSet_eq_true_iff.2 he)))
  · rintro hp rfl
    rw [writeCmd_softReset, exec_softReset_idle hb, launch_held (State.held_iff.2 hp)]
    rfl
  · rintro hp rfl
    rw [writeCmd_clearErr, exec_clearErr_idle hb, launch_held (State.held_iff.2 hp)]
    rfl

/-- Settles O6: every word is launched, and the hold comes before its body. -/
theorem acceptingAnyWord : Obligations.AcceptingAnyWord := by
  intro s w hq he hp
  obtain ⟨c, todo, body, heq⟩ := writeCmd_launches (State.busy_idle hq) (State.errSet_eq_false_iff.2 he) w
  exact ⟨.enter c, todo, (memWrite_cmd w s).trans (heq.trans (launch_held (State.held_iff.2 hp)))⟩

/-- Settles O8. -/
theorem statusWriteClearsDoneAndRej : Obligations.StatusWriteClearsDoneAndRej := by
  intro s v
  rw [memWrite_status, State.writeStatus]
  cases v.getLsbD 1 <;> cases v.getLsbD 3 <;> simp

/-- Settles O12: acceptance and completion with nothing between them. -/
theorem nopOnlyFlags : Obligations.NopOnlyFlags := by
  refine fun s => ⟨fun ⟨hq, he, hp⟩ => ?_, fun _ he => command_rejected (.inr (State.errSet_eq_true_iff.2 he))⟩
  calc exec .nop s = settle 0x00 (.ret (s.accept 0x00 (.enter .nop) [])) := command_ready hq he hp
    _ = .next s.completed := settle_ret_free _ hp

/-- Settles O13: CLEAR_ERR is launched whatever ERR is. -/
theorem clearErrClearsRecord : Obligations.ClearErrClearsRecord := by
  intro s hq hp
  rw [exec_clearErr_idle (State.busy_idle hq), launch_runs (State.held_none hp), accept_tick_none _ _ _ hp]
  exact settle_ret_free _ hp

end Sys2Proof.Machine
end

section
/-! PROOFS. The frames of the commands that touch no stream and raise nothing (spec/40_control.md R98, R100; 41_frequency.md R102; 42_heap.md
R111; 43_tree_builder.md R114, R115; 44_code_table.md R119). -/

namespace Sys2Proof.Machine

open Sys2Proof

/-! ### What acceptance and completion change -/

/-- The state less what rejection, acceptance, completion and the engine's transfers write (R91 to R93; log 3). -/
def State.lessLifecycle (s : State) : State :=
  { s with seq := .idle, done := false, rej := false, emptyArt := false, midwalk := false, inCount := 0, outCount := 0, pace := none }

/-- The state with those elements taken from t. -/
def State.withLifecycle (s t : State) : State :=
  { s with
    seq := t.seq, done := t.done, rej := t.rej, emptyArt := t.emptyArt, midwalk := t.midwalk, inCount := t.inCount, outCount := t.outCount
    pace := t.pace }

/-- A body that can only return, or has no meaning, changes the rest of the state by its own effect alone. -/
theorem lessLifecycle_of_settle {op : Byte} {x : Except Fault State} {t : State} (ht : settle op (.ofExcept x) = .next t) :
    ∃ v, x = .ok v ∧ t.lessLifecycle = v.lessLifecycle := by
  cases x with
  | error f => cases ht
  | ok v =>
    obtain rfl := Host.Outcome.next.inj ht
    refine ⟨v, rfl, ?_⟩
    split <;> rfl

section frame
variable {op : Byte} {c : Stage} {f : State → Except Fault State} {F : State → State} {s t : State}
  (hF : ∀ u, F u.lessLifecycle = (F u).lessLifecycle) (hf : ∀ u v, f u = .ok v → F v = F u)
include hF hf

/-- What F leaves of the state once it has set aside what the body f writes is the same after the command, but for the lifecycle. -/
theorem launch_keeps (ht : launch op c [] (fun u => .ofExcept (f u)) s = .next t) : F t.lessLifecycle = F s.lessLifecycle := by
  cases hh : s.held with
  | true =>
    rw [launch_held hh] at ht
    obtain rfl := Host.Outcome.next.inj ht
    rfl
  | false =>
    rw [launch_runs hh] at ht
    obtain ⟨v, hv, htv⟩ := lessLifecycle_of_settle ht
    calc F t.lessLifecycle = (F v).lessLifecycle := by rw [htv, hF]
      _ = (F (s.accept op (.enter c) []).tick).lessLifecycle := by rw [hf _ _ hv]
      _ = F s.lessLifecycle := (hF _).symm

theorem command_keeps (ht : command op c [] (fun u => .ofExcept (f u)) s = .next t) : F t.lessLifecycle = F s.lessLifecycle := by
  unfold command at ht
  split at ht
  · obtain rfl := Host.Outcome.next.inj ht
    rfl
  · exact launch_keeps hF hf ht

end frame

theorem execClearErr_keeps {s t : State} (ht : exec .clearErr s = .next t) : t.lessLifecycle.clearError = s.lessLifecycle.clearError := by
  cases hb : s.busy with
  | true =>
    rw [exec_clearErr_busy hb] at ht
    obtain rfl := Host.Outcome.next.inj ht
    rfl
  | false =>
    rw [exec_clearErr_idle hb] at ht
    exact launch_keeps (F := State.clearError) (f := fun u => .ok u.clearError) (fun _ => rfl) (fun _ _ hv => Except.ok.inj hv ▸ rfl) ht

/-! ### What the bodies change -/

theorem HeapOnly.discardTree {s t : State} (h : HeapOnly s t) : t.discardTree = s.discardTree := by rw [h]; rfl

/-- HEAP_BUILD writes what it discards first (R111). -/
theorem buildHeap_discardTree (s : State) : s.buildHeap.discardTree = s.discardTree := (buildHeap_law s).1.discardTree

/-- The state less what a merge writes (R113; log 7). -/
def State.lessMerge (s : State) : State :=
  { s with node := .fill 255 .clear, nextInt := 0, heap := .fill 256 0, heapSize := 0, draws := 0 }

/-- The state with those elements taken from t. -/
def State.withMerge (s t : State) : State :=
  { s with node := t.node, nextInt := t.nextInt, heap := t.heap, heapSize := t.heapSize, draws := t.draws }

theorem merge_lessMerge {s t : State} (h : s.merge = .ok t) : t.lessMerge = s.lessMerge := by
  obtain ⟨j, a, b, w, d, -, -, -, -, -, ht⟩ := State.merge_ok h
  rw [ht]
  rfl

theorem treeStep_lessMerge {s t : State} (h : s.treeStep = .ok t) : t.lessMerge = s.lessMerge := by
  unfold State.treeStep at h
  split at h
  · cases h; rfl
  · split at h
    · exact merge_lessMerge h
    · cases h

theorem mergeAll_lessMerge (turns : Nat) {s t : State} (h : mergeAll turns s = .ok t) : t.lessMerge = s.lessMerge := by
  induction turns generalizing s with
  | zero => cases h; rfl
  | succ n ih =>
    simp only [mergeAll] at h
    split at h
    · split at h
      next u hu => exact (ih h).trans (merge_lessMerge hu)
      · cases h
    · cases h; rfl

theorem finalizeTree_lessTree {s t : State} (h : s.finalizeTree = .ok t) : t.lessTree = s.lessTree := by
  unfold State.finalizeTree at h
  split at h
  · cases h; rfl
  · split at h
    · obtain ⟨j, -, rfl⟩ := synthesize_ok h
      simp [State.lessTree]
    · cases h; rfl

/-- TREE_BUILD writes what its merges write, and ROOT (R115). -/
theorem treeBuild_lessTree {s t : State} (h : s.treeBuild = .ok t) : t.lessTree = s.lessTree := by
  unfold State.treeBuild at h
  split at h
  · split at h
    next u hu => exact (finalizeTree_lessTree h).trans (congrArg State.lessTree (mergeAll_lessMerge _ hu) :)
    · cases h
  · cases h

theorem deriveCodes_lessCodes {s t : State} (h : s.deriveCodes = .ok t) : t.lessCodes = s.lessCodes := by
  have hends := codesDeriveBody_ends s (fun _ => True)
  rw [codesDeriveBody, h] at hends
  exact hends.2.2

/-! ### The statement -/

/-- Settles O42: what a command sets aside is the same before and after it, so t is s with the elements set aside taken from t. -/
theorem tableCommandFrames : Obligations.TableCommandFrames := by
  intro s t
  refine ⟨fun h => ?nop, fun h => ?clearErr, fun h => ?freqClear, fun h => ?heapBuild, fun h => ?treeStep, fun h => ?treeBuild,
    fun h => ?codesDerive⟩
  case nop =>
    have hk := command_keeps (F := id) (f := .ok) (fun _ => rfl) (fun _ _ hv => (Except.ok.inj hv).symm) h
    exact (congrArg (·.withLifecycle t) hk :)
  case clearErr => exact (congrArg (fun u => { u.withLifecycle t with err := t.err }) (execClearErr_keeps h) :)
  case freqClear =>
    have hk := command_keeps (F := State.clearFreq) (f := fun u => .ok u.clearFreq) (fun _ => rfl) (fun _ _ hv => Except.ok.inj hv ▸ rfl) h
    exact (congrArg (fun u => { u.withLifecycle t with freq := t.freq, total := t.total, nsym := t.nsym }) hk :)
  case heapBuild =>
    have hk := command_keeps (F := State.discardTree) (f := fun u => .ok u.buildHeap) (fun _ => rfl)
      (fun u _ hv => Except.ok.inj hv ▸ buildHeap_discardTree u) h
    exact (congrArg (fun u => { (u.withLifecycle t).withMerge t with root := t.root, draws := u.draws }) hk :)
  case treeStep =>
    have hk := command_keeps (F := State.lessMerge) (fun _ => rfl) (fun _ _ => treeStep_lessMerge) h
    exact (congrArg (fun u => (u.withLifecycle t).withMerge t) hk :)
  case treeBuild =>
    have hk := command_keeps (F := State.lessTree) (fun _ => rfl) (fun _ _ => treeBuild_lessTree) h
    exact (congrArg (fun u => { (u.withLifecycle t).withMerge t with root := t.root }) hk :)
  case codesDerive =>
    have hk := command_keeps (F := State.lessCodes) (fun _ => rfl) (fun _ _ => deriveCodes_lessCodes) h
    exact (congrArg (fun u => { u.withLifecycle t with codeLen := t.codeLen, codeBits := t.codeBits, stack := t.stack }) hk :)

end Sys2Proof.Machine
end

section
/-! PROOFS. The frequency counter (spec/41_frequency.md R102, R103; 10_state.md R49). -/

namespace Sys2Proof.Machine

open Sys2Proof

/-! ### FREQ_CLEAR (R102) -/

theorem exec_freqClear_ready {s : State} (h : s.Ready) : exec .freqClear s = .next s.completed.clearFreq :=
  calc exec .freqClear s = settle 0x10 (.ret (s.accept 0x10 (.enter .freqClear) []).clearFreq) := command_ready h.1 h.2.1 h.2.2
    _ = .next s.completed.clearFreq := settle_ret_free _ h.2.2

/-- Settles O14. -/
theorem freqClearZeroesTable : Obligations.FreqClearZeroesTable := fun _ hs =>
  ⟨_, exec_freqClear_ready hs, fun v => Table.get_fill 0 (symIndex v), rfl, rfl, rfl⟩

/-! ### FREQ_COUNT reads the bytes of a pass (R103) -/

theorem countByte_freqOf (s : State) (b v : Byte) : (s.countByte b).freqOf v = if b = v then s.freqOf b + 1 else s.freqOf v :=
  s.freqOf_setFreq b v (s.freqOf b + 1)

/-- t is s with these bytes read and counted; IN is left open. -/
structure State.Counted (s : State) (bytes : List Byte) (t : State) : Prop where
  frame : t = { s with inq := t.inq, inCount := t.inCount, freq := t.freq, total := t.total, nsym := t.nsym }
  inCount : t.inCount = s.inCount + BitVec.ofNat 32 bytes.length
  total : t.total = s.total + BitVec.ofNat 32 bytes.length
  freq : ∀ v, (t.freqOf v).toNat = (s.freqOf v).toNat + bytes.count v
  agree : t.CountsAgree

theorem State.CountsAgree.counted_nil {s : State} (h : s.CountsAgree) : s.Counted [] s :=
  ⟨rfl, by simp, by simp, by simp, h⟩

section count
variable {s t : State} {b : Byte} {bytes : List Byte} {ts rest : List Token}

/-- Reading one byte below TOTAL_MAX, and then the others. -/
theorem State.CountsAgree.counted_cons (h : s.CountsAgree) (hmax : s.total ≠ Config.totalMax)
    (k : (State.countByte { s with inq := ts, inCount := s.inCount + 1 } b).Counted bytes t) : s.Counted (b :: bytes) t where
  frame := k.frame
  inCount := by
    rw [k.inCount, List.length_cons, Nat.add_comm, BitVec.ofNat_add, ← BitVec.add_assoc]
    rfl
  total := by
    rw [k.total, List.length_cons, Nat.add_comm, BitVec.ofNat_add, ← BitVec.add_assoc]
    rfl
  freq v := by
    have hv : ((State.countByte { s with inq := ts, inCount := s.inCount + 1 } b).freqOf v).toNat =
        (s.freqOf v).toNat + if b = v then 1 else 0 := by
      rw [countByte_freqOf]
      split
      next hbv => exact hbv ▸ h.freqOf_add_one b hmax
      next => rfl
    rw [k.freq, hv, List.count_cons]
    simp only [beq_iff_eq]
    omega
  agree := k.agree

section free
variable (hp : s.pace = none)
include hp

theorem countLoop_endOfPass (hq : s.inq = .endOfPass :: rest) : countLoop s = .ret { s with inq := rest } := by
  rw [countLoop, hq, overTokens_stop (State.held_none hp) rfl, State.consume, State.tick_none hp]

theorem countLoop_fail (hq : s.inq = .fail :: rest) : countLoop s = .raised .srcIo 0 { s with inq := rest } := by
  rw [countLoop, hq, overTokens_stop (State.held_none hp) rfl, State.consume, State.tick_none hp]

theorem countLoop_overflow (hq : s.inq = .byte b :: rest) (hmax : s.total = Config.totalMax) :
    countLoop s = .raised .countOverflow b { s with inq := rest, inCount := s.inCount + 1 } := by
  rw [countLoop, hq, overTokens_stop (State.held_none hp) (if_pos hmax), State.consume, State.tick_none hp]

theorem countLoop_byte (hq : s.inq = .byte b :: ts) (hmax : s.total ≠ Config.totalMax) :
    countLoop s = countLoop (State.countByte { s with inq := ts, inCount := s.inCount + 1 } b) := by
  rw [countLoop, hq, overTokens_more (State.held_none hp) (if_neg hmax), State.consume, State.tick_none hp]
  rfl

/-- By induction over the bytes: while TOTAL has room, each is counted. -/
theorem countLoop_counts (h : s.CountsAgree) (hq : s.inq = bytes.map .byte ++ rest) (hroom : s.total.toNat + bytes.length < 2 ^ 32) :
    ∃ t, s.Counted bytes t ∧ t.inq = rest ∧ countLoop s = countLoop t := by
  induction bytes generalizing s with
  | nil => exact ⟨s, h.counted_nil, hq, rfl⟩
  | cons b bytes ih =>
    rw [List.length_cons] at hroom
    have hmax : s.total ≠ Config.totalMax := fun e => by
      have : s.total.toNat = 2 ^ 32 - 1 := by rw [e]; rfl
      omega
    have hsum : (s.total + 1).toNat = s.total.toNat + 1 := total_add_one hmax
    obtain ⟨t, hk, hrest, hloop⟩ := ih (s := State.countByte { s with inq := bytes.map .byte ++ rest, inCount := s.inCount + 1 } b) hp
      (State.CountsAgree.countByte (h.congr rfl) b hmax) rfl (by rw [State.countByte_total, hsum]; omega)
    exact ⟨t, h.counted_cons hmax hk, hrest, (countLoop_byte hp hq hmax).trans hloop⟩

end free

end count

/-! ### The statements -/

theorem exec_freqCount_ready {s : State} (h : s.Ready) :
    exec .freqCount s = settle 0x11 (countLoop (s.accept 0x11 (.enter .freqCount) [])) := command_ready h.1 h.2.1 h.2.2

/-- What FREQ_COUNT has done when it comes to the token after the bytes. -/
theorem exec_freqCount_counts {s : State} {bytes : List Byte} {rest : List Token} (hs : s.Ready) (h : s.CountsAgree)
    (hq : s.inq = bytes.map .byte ++ rest) (hroom : s.total.toNat + bytes.length < 2 ^ 32) :
    ∃ t, (s.accept 0x11 (.enter .freqCount) []).Counted bytes t ∧ t.pace = none ∧ t.inq = rest ∧
      t.inCount = BitVec.ofNat 32 bytes.length ∧ t.total = s.total + BitVec.ofNat 32 bytes.length ∧
      exec .freqCount s = settle 0x11 (countLoop t) := by
  obtain ⟨t, hk, hrest, hloop⟩ := countLoop_counts (s := s.accept 0x11 (.enter .freqCount) []) hs.2.2 (h.congr rfl) hq hroom
  refine ⟨t, hk, (congrArg State.pace hk.frame).trans hs.2.2, hrest, hk.inCount.trans (BitVec.zero_add _), hk.total, ?_⟩
  rw [exec_freqCount_ready hs, hloop]

/-- Settles O15: the `End` after the bytes completes the command. -/
theorem freqCountAddsPass : Obligations.FreqCountAddsPass := by
  intro s bytes rest hs h hq hroom
  obtain ⟨t, hk, hp, hrest, hcount, htotal, heq⟩ := exec_freqCount_counts hs h hq hroom
  rw [countLoop_endOfPass hp hrest] at heq
  refine ⟨_, heq.trans (settle_ret_free _ hp), hk.freq, hk.agree, ?_⟩
  rw [← htotal, ← hcount]
  exact (congrArg (fun u => State.complete { u with inq := rest }) hk.frame :)

/-- Settles O16: the token after the bytes is a `Fail`, or a byte that finds TOTAL at TOTAL_MAX. -/
theorem freqCountErrors : Obligations.FreqCountErrors := by
  intro s bytes rest hs h
  refine ⟨fun hq hroom => ?_, fun b hq hfull => ?_⟩
  · obtain ⟨t, hk, hp, hrest, hcount, htotal, heq⟩ := exec_freqCount_counts hs h hq hroom
    rw [countLoop_fail hp hrest] at heq
    refine ⟨_, heq.trans (settle_raised_free _ _ _ hp), hk.freq, hk.agree, ?_⟩
    rw [← htotal, ← hcount]
    exact (congrArg (fun u => State.raiseError { u with inq := rest } 0x11 .srcIo 0) hk.frame :)
  · obtain ⟨t, hk, hp, hrest, hcount, htotal, heq⟩ := exec_freqCount_counts hs h hq (by omega)
    have hmax : t.total = 0xFFFFFFFF := by
      refine htotal.trans (BitVec.eq_of_toNat_eq ?_)
      rw [BitVec.toNat_add, BitVec.toNat_ofNat, Nat.add_mod_mod, hfull]
      rfl
    rw [countLoop_overflow hp hrest hmax] at heq
    refine ⟨_, heq.trans (settle_raised_free _ _ _ hp), hk.freq, hk.agree, ?_⟩
    rw [BitVec.ofNat_add, ← hcount, ← hmax]
    exact (congrArg (fun u => State.raiseError { u with inq := rest, inCount := u.inCount + 1 } 0x11 .countOverflow b) hk.frame :)

end Sys2Proof.Machine
end

section
/-! PROOFS. The frames of the commands that read IN or emit to OUT (spec/41_frequency.md R103; 45_tree_codec.md R123, R124; 46_bit_packer.md R130;
47_bit_unpacker.md R134; 20_memory.md R60, R61). What these bodies write stands in `countLoop_ends`, `treeSerializeBody_ends`,
`treeDeserializeBody_ends`, `packBody_ends` and `unpackBody_ends`; here are the port each of them does not use, and that none resets the block. -/

namespace Sys2Proof.Machine

open Sys2Proof

/-! ### Bodies that do not reset the block -/

/-- The body returns, raises or waits in a state with P; it does not reset the block as SOFT_RESET does. -/
def Run.RunsTo (P : State → Prop) : Run → Prop
  | .ret s => P s
  | .raised _ _ s => P s
  | .wait _ _ s => P s
  | .reset _ => False
  | .stuck _ => True

/-- The same of one iteration of a loop. -/
def LoopStep.RunsTo {σ : Type} (P : State → Prop) : LoopStep σ → Prop
  | .more _ s => P s
  | .stop r => r.RunsTo P

/-- No reset, and nothing said of the state. -/
abbrev Run.NoReset : Run → Prop := Run.RunsTo fun _ => True
abbrev LoopStep.NoReset {σ : Type} : LoopStep σ → Prop := LoopStep.RunsTo fun _ => True

theorem Run.Ends.runsTo {P Q : State → Prop} {W : Pos → Prop} {r : Run} (h : r.Ends P W) (k : r.RunsTo Q) :
    r.RunsTo fun s => P s ∧ Q s := by
  cases r with
  | ret s => exact ⟨h, k⟩
  | raised e info s => exact ⟨h, k⟩
  | wait pos todo s => exact ⟨h.2.2, k⟩
  | reset s => exact k
  | stuck f => trivial

theorem Run.RunsTo.imp {P Q : State → Prop} {r : Run} (h : r.RunsTo P) (hPQ : ∀ s, P s → Q s) : r.RunsTo Q := by
  cases r with
  | ret s => exact hPQ s h
  | raised e info s => exact hPQ s h
  | wait pos todo s => exact hPQ s h
  | reset s => exact h
  | stuck f => trivial

/-- A token loop keeps P, and does not reset, when ReadIn and each iteration do so. -/
theorem runsTo_overTokens {σ : Type} {pos : σ → Pos} {body : σ → Token → State → LoopStep σ} {P : State → Prop}
    (hconsume : ∀ s tok ts, P s → P (s.consume tok ts)) (hbody : ∀ x tok s, P s → (body x tok s).RunsTo P) (ts : List Token) (x : σ)
    {s : State} (h : P s) : (overTokens pos body ts x s).RunsTo P := by
  induction ts generalizing x s with
  | nil => exact h
  | cons tok ts ih =>
    have hstep := hbody x tok (s.consume tok ts) (hconsume s tok ts h)
    cases hh : s.held with
    | true =>
      rw [overTokens_held hh]
      exact h
    | false =>
      cases hb : body x tok (s.consume tok ts) with
      | more x' s' =>
        rw [hb] at hstep
        rw [overTokens_more hh hb]
        exact ih x' hstep
      | stop r =>
        rw [hb] at hstep
        rw [overTokens_stop hh hb]
        exact hstep

/-! ### PACK and UNPACK (R130, R134) -/

theorem putBits_noReset (b : Byte) (n : Nat) (s : State) : (putBits b n s).NoReset := by
  induction n generalizing s with
  | zero => trivial
  | succ n ih =>
    simp only [putBits]
    split
    next t _ => exact ih t
    next => trivial
    next => trivial

theorem flushPartial_noReset (s : State) : (flushPartial s).NoReset := by
  unfold flushPartial
  split
  · trivial
  · split <;> trivial

theorem packToken_noReset (tok : Token) (s : State) : (packToken () tok s).NoReset := by
  cases tok with
  | fail => trivial
  | endOfPass => exact flushPartial_noReset s
  | byte b =>
    simp only [packToken]
    split
    · trivial
    · exact putBits_noReset b _ s

theorem packBody_noReset (s : State) : (packBody s).NoReset :=
  runsTo_overTokens (fun _ _ _ h => h) (fun _ tok u _ => packToken_noReset tok u) _ () trivial

theorem walkBits_noReset (b : Byte) (n : Nat) (s : State) : (walkBits b n s).NoReset := by
  induction n generalizing s with
  | zero => trivial
  | succ n ih =>
    simp only [walkBits]
    split
    · trivial
    next c _ =>
      split
      · split
        next t _ => exact ih t
        next => trivial
        next => trivial
      · exact ih { s with cur := c }

theorem unpackToken_noReset (tok : Token) (s : State) : (unpackToken () tok s).NoReset := by
  cases tok with
  | fail => trivial
  | endOfPass => trivial
  | byte b => exact walkBits_noReset b 8 s

theorem unpackBody_noReset (s : State) : (unpackBody s).NoReset := by
  unfold unpackBody
  split
  · trivial
  · exact runsTo_overTokens (fun _ _ _ h => h) (fun _ tok u _ => unpackToken_noReset tok u) _ () trivial

/-! ### TREE_SERIALIZE reads nothing (R123) -/

theorem serialLoop_keepsInq (turns : Nat) (p : Option Idx) {s : State} {q : List Token} (h : s.inq = q) :
    (serialLoop turns p s).RunsTo (·.inq = q) := by
  induction turns generalizing p s with
  | zero =>
    unfold serialLoop
    split
    · exact h
    · trivial
  | succ n ih =>
    unfold serialLoop
    split
    · exact h
    · dsimp only
      split
      · exact h
      next t ht => exact (lessPorts_emit (.inr ht)).2.trans h
      next t ht =>
        split
        next p' u hu => exact ih p' ((congrArg Prod.fst (serialNext_portPart hu)).trans ((lessPorts_emit (.inl ht)).2.trans h))
        · trivial

theorem treeSerializeBody_keepsInq (s : State) : (treeSerializeBody s).RunsTo (·.inq = s.inq) := by
  unfold treeSerializeBody
  split
  · exact rfl
  · exact serialLoop_keepsInq headerBytes none rfl

/-! ### FREQ_COUNT and ParseHeader emit nothing (R103, R125) -/

/-- OUT and the queue of answers. -/
def State.sinkPart (s : State) : List SinkAnswer × List Byte := (s.sink, s.out)

theorem sinkPart_consume (s : State) (tok : Token) (ts : List Token) : (s.consume tok ts).sinkPart = s.sinkPart := by cases tok <;> rfl

theorem freqCountBody_keepsSink (s : State) : (freqCountBody s).RunsTo (·.sinkPart = s.sinkPart) := by
  refine runsTo_overTokens (fun u tok ts => (sinkPart_consume u tok ts).trans) (fun _ tok u h => ?_) _ () rfl
  cases tok with
  | fail => exact h
  | endOfPass => exact h
  | byte b =>
    simp only [countToken]
    split <;> exact h

section parse
variable {s : State} {a : List SinkAnswer × List Byte} (h : s.sinkPart = a)
include h

theorem parseEnd_keepsSink (r n : Idx) : (parseEnd r n s).RunsTo (·.sinkPart = a) := by
  unfold parseEnd finishHeader
  split
  · split
    · split <;> exact h
    · exact h
  · split
    next t ht =>
      obtain ⟨-, rfl⟩ := State.push_ok.1 ht
      exact h
    · trivial

theorem parseNode_keepsSink (p : ParsePoint) (n : Idx) : (parseNode p n s).RunsTo (·.sinkPart = a) := by
  have later : ∀ r, (parseNode (.tag r) n s).RunsTo (·.sinkPart = a) := fun r => by
    simp only [parseNode]
    split
    next t ht =>
      obtain ⟨x, j, -, -, hteq, -⟩ := attach_ok ht
      have hsink : t.sinkPart = s.sinkPart := by rw [hteq]; rfl
      exact parseEnd_keepsSink (hsink.trans h) r n
    · trivial
  cases p with
  | first => exact parseEnd_keepsSink h n n
  | tag r => exact later r
  | value r => exact later r

theorem parseInternal_keepsSink (p : ParsePoint) : (parseInternal p s).RunsTo (·.sinkPart = a) := by
  unfold parseInternal
  split
  · exact h
  · split
    next t ht =>
      obtain ⟨j, -, rfl⟩ := State.alloc_ok.1 ht
      refine parseNode_keepsSink ?_ p s.nextInt
      exact h
    · trivial

theorem parseTag_keepsSink (p : ParsePoint) (tag : Byte) : (parseTag p tag s).RunsTo (·.sinkPart = a) := by
  unfold parseTag
  split
  · exact parseInternal_keepsSink h p
  · split
    · cases p with
      | first => exact h
      | tag r | value r => exact h
    · exact h

theorem parseToken_keepsSink (p : ParsePoint) (tok : Token) : (parseToken p tok s).RunsTo (·.sinkPart = a) := by
  cases tok with
  | fail => exact h
  | endOfPass =>
    cases p with
    | first => exact h
    | tag r | value r => exact h
  | byte b =>
    cases p with
    | first | tag r => exact parseTag_keepsSink h _ b
    | value r => exact parseNode_keepsSink h (.value r) (leafSlot b)

end parse

theorem treeDeserializeBody_keepsSink (s : State) : (treeDeserializeBody s).RunsTo (·.sinkPart = s.sinkPart) :=
  runsTo_overTokens (fun u tok ts => (sinkPart_consume u tok ts).trans) (fun p tok _ h => parseToken_keepsSink h p tok) _ .first rfl

/-! ### What the lifecycle of a command that can raise changes -/

/-- The state less what rejection, acceptance, completion, a raise and the engine's transfers write (R91 to R93, R150; log 3). -/
def State.lessRun (s : State) : State := { s.lessLifecycle with err := .none }

/-- The state with those elements taken from t. -/
def State.withRun (s t : State) : State := { s.withLifecycle t with err := t.err }

theorem lessRun_of_settle {op : Byte} {r : Run} {P : State → Prop} {t : State} (hr : r.RunsTo P) (ht : settle op r = .next t) :
    ∃ v, P v ∧ t.lessRun = v.lessRun := by
  cases r with
  | ret v =>
    obtain rfl := Host.Outcome.next.inj ht
    exact ⟨v, hr, by split <;> rfl⟩
  | raised e info v =>
    obtain rfl := Host.Outcome.next.inj ht
    exact ⟨v, hr, by split <;> rfl⟩
  | wait pos todo v =>
    obtain rfl := Host.Outcome.next.inj ht
    exact ⟨v, hr, rfl⟩
  | reset v => exact hr.elim
  | stuck f => cases ht

/-- What F leaves of the state once it has set aside what the body writes is the same after the command, however it ends, but for the
lifecycle. -/
theorem streamCommand_keeps {op : Byte} {c : Stage} {body : State → Run} {F : State → State} {s t : State}
    (hF : ∀ u, F u.lessRun = (F u).lessRun) (hbody : ∀ u, (body u).RunsTo fun v => F v = F u) (ht : command op c [] body s = .next t) :
    F t.lessRun = F s.lessRun := by
  rcases command_next.1 ht with ⟨-, rfl⟩ | ⟨-, -, -, rfl⟩ | ⟨-, -, -, hset⟩
  · rfl
  · rfl
  · obtain ⟨v, hv, htv⟩ := lessRun_of_settle (hbody _) hset
    calc F t.lessRun = (F v).lessRun := by rw [htv, hF]
      _ = (F (s.accept op (.enter c) []).tick).lessRun := by rw [hv]
      _ = F s.lessRun := (hF _).symm

/-! ### What the bodies leave alone, with the port they do not use -/

/-- OUT and the queue of answers put in place. -/
def State.withSink (s : State) (p : List SinkAnswer × List Byte) : State := { s with sink := p.1, out := p.2 }

/-- The state less what FREQ_COUNT writes (R103). -/
def State.lessFreqCount (s : State) : State := s.lessCounts.withSink s.sinkPart

/-- The state less what TREE_SERIALIZE writes (R123). -/
def State.lessSerialize (s : State) : State := { s.lessStack with inq := s.inq }

/-- The state less what TREE_DESERIALIZE writes (R124). -/
def State.lessDeserialize (s : State) : State := s.lessParse.discardTree.withSink s.sinkPart

theorem freqCountBody_keeps (s : State) : (freqCountBody s).RunsTo fun t => t.lessFreqCount = s.lessFreqCount :=
  ((countLoop_ends s).runsTo (freqCountBody_keepsSink s)).imp fun _ ⟨⟨hless, _⟩, hsink⟩ => congrArg₂ State.withSink hless hsink

theorem treeSerializeBody_keeps (s : State) : (treeSerializeBody s).RunsTo fun t => t.lessSerialize = s.lessSerialize :=
  ((treeSerializeBody_ends s).runsTo (treeSerializeBody_keepsInq s)).imp fun _ ⟨⟨hless, _⟩, hinq⟩ => by
    rw [State.lessSerialize, hless, hinq, State.lessSerialize]

theorem treeDeserializeBody_keeps (s : State) : (treeDeserializeBody s).RunsTo fun t => t.lessDeserialize = s.lessDeserialize :=
  ((treeDeserializeBody_ends s).runsTo (treeDeserializeBody_keepsSink s)).imp fun _ ⟨⟨⟨hless, _⟩, _⟩, hsink⟩ =>
    congrArg₂ State.withSink (congrArg State.discardTree hless :) hsink

theorem packBody_keeps (s : State) : (packBody s).RunsTo fun t => t.lessAcc = s.lessAcc :=
  ((packBody_ends s).runsTo (packBody_noReset s)).imp fun _ ⟨⟨hless, _⟩, _⟩ => hless

theorem unpackBody_keeps (s : State) : (unpackBody s).RunsTo fun t => t.lessWalk = s.lessWalk :=
  ((unpackBody_ends s).runsTo (unpackBody_noReset s)).imp fun _ ⟨hless, _⟩ => hless

/-! ### The statement -/

/-- Settles O43: what a command sets aside is the same before and after it, so t is s with the elements set aside taken from t. -/
theorem streamCommandFrames : Obligations.StreamCommandFrames := by
  intro s t
  refine ⟨fun h => ?freqCount, fun h => ?treeSerialize, fun h => ?treeDeserialize, fun h => ?pack, fun h => ?unpack⟩
  case freqCount =>
    have hk := streamCommand_keeps (F := State.lessFreqCount) (fun _ => rfl) freqCountBody_keeps h
    exact (congrArg (fun u => { u.withRun t with inq := t.inq, freq := t.freq, total := t.total, nsym := t.nsym }) hk :)
  case treeSerialize =>
    have hk := streamCommand_keeps (F := State.lessSerialize) (fun _ => rfl) treeSerializeBody_keeps h
    exact (congrArg (fun u => { u.withRun t with sink := t.sink, out := t.out, stack := t.stack }) hk :)
  case treeDeserialize =>
    have hk := streamCommand_keeps (F := State.lessDeserialize) (fun _ => rfl) treeDeserializeBody_keeps h
    exact (congrArg (fun u => { (u.withRun t).withMerge t with inq := t.inq, root := t.root, stack := t.stack, draws := u.draws }) hk :)
  case pack =>
    have hk := streamCommand_keeps (F := State.lessAcc) (fun _ => rfl) packBody_keeps h
    exact (congrArg (fun u => { u.withRun t with inq := t.inq, sink := t.sink, out := t.out, acc := t.acc, accN := t.accN }) hk :)
  case unpack =>
    have hk := streamCommand_keeps (F := State.lessWalk) (fun _ => rfl) unpackBody_keeps h
    exact (congrArg (fun u => { u.withRun t with inq := t.inq, sink := t.sink, out := t.out, cur := t.cur }) hk :)

end Sys2Proof.Machine
end

section
/-! PROOFS. HEAP_BUILD's heap order (spec/42_heap.md R105 to R107, R111): SiftDown restores the order at one position, Floyd's build at every
position, and which symbols it orders. -/

namespace Sys2Proof.Machine

open Sys2Proof

/-! ### The heap order as an order of numbers (R105) -/

/-- The place of a node in the heap order: its weight first, its index among equal weights. -/
def State.rank (s : State) (n : Idx) : Nat := 512 * (s.weight n).toNat + n.toNat

/-- The place of the entry at a heap position. -/
def State.rankAt (s : State) (k : Nat) : Nat := s.rank (s.heapAt k)

theorem State.before_iff_rank {s : State} {a b : Idx} : s.Before a b ↔ s.rank a < s.rank b := by
  have ha := a.isLt
  have hb := b.isLt
  simp only [State.Before, State.rank]
  omega

theorem State.less_iff_rank {s : State} {a b : Idx} : s.less a b = true ↔ s.rank a < s.rank b := by
  rw [← State.before_iff_rank]
  simp [State.less, State.Before, BitVec.lt_def, BitVec.toNat_eq]

theorem State.less_iff_rankAt {s : State} {i j : Nat} : s.less (s.heapAt i) (s.heapAt j) = true ↔ s.rankAt i < s.rankAt j :=
  State.less_iff_rank

theorem State.rank_inj {s : State} {a b : Idx} (h : s.rank a = s.rank b) : a = b := by
  have ha := a.isLt
  have hb := b.isLt
  simp only [State.rank] at h
  exact BitVec.eq_of_toNat_eq (by omega)

theorem HeapOnly.rank {s t : State} (h : HeapOnly s t) (n : Idx) : t.rank n = s.rank n := by rw [State.rank, h.weight, State.rank]

theorem State.rankAt_swapHeap (s : State) {i j : Nat} (k : Nat) (hi : i < 256) (hj : j < 256) :
    (s.swapHeap i j).rankAt k = if k = j then s.rankAt i else if k = i then s.rankAt j else s.rankAt k := by
  simp only [State.rankAt, (heapOnly_swapHeap s i j).rank, State.heapAt_swapHeap s k hi hj]
  split_ifs <;> rfl

/-! ### Order from a position on -/

/-- No live entry whose parent stands at b or later comes before its parent. -/
def State.OrderedFrom (s : State) (b : Nat) : Prop :=
  ∀ k, 0 < k → k < s.live → b ≤ (k - 1) / 2 → s.rankAt ((k - 1) / 2) ≤ s.rankAt k

/-- The same but for the children of position i, which come after the parent of i all the same: SiftDown's invariant at position i. -/
structure State.OrderedFromExcept (s : State) (b i : Nat) : Prop where
  others : ∀ k, 0 < k → k < s.live → b ≤ (k - 1) / 2 → (k - 1) / 2 ≠ i → s.rankAt ((k - 1) / 2) ≤ s.rankAt k
  children : 0 < i → b ≤ (i - 1) / 2 → ∀ k, 0 < k → k < s.live → (k - 1) / 2 = i → s.rankAt ((i - 1) / 2) ≤ s.rankAt k

/-- SiftDown stays at i, or moves to a live child, whichever is least (R107). -/
theorem State.leastChild_least (s : State) (i : Nat) :
    (s.leastChild i = i ∨ (s.leastChild i < s.live ∧ 0 < s.leastChild i ∧ (s.leastChild i - 1) / 2 = i)) ∧
      s.rankAt (s.leastChild i) ≤ s.rankAt i ∧
      ∀ k, 0 < k → k < s.live → (k - 1) / 2 = i → s.rankAt (s.leastChild i) ≤ s.rankAt k := by
  obtain ⟨hmove, hstay, hleft, hright⟩ :
      (s.leastChild i = i ∨ s.leastChild i < s.live ∧ 0 < s.leastChild i ∧ (s.leastChild i - 1) / 2 = i) ∧
        s.rankAt (s.leastChild i) ≤ s.rankAt i ∧
        (2 * i + 1 < s.live → s.rankAt (s.leastChild i) ≤ s.rankAt (2 * i + 1)) ∧
        (2 * i + 2 < s.live → s.rankAt (s.leastChild i) ≤ s.rankAt (2 * i + 2)) := by
    simp only [State.leastChild, Bool.and_eq_true, decide_eq_true_eq, State.less_iff_rankAt]
    split_ifs <;> omega
  refine ⟨hmove, hstay, fun k h0 hk hp => ?_⟩
  obtain rfl | rfl : k = 2 * i + 1 ∨ k = 2 * i + 2 := by omega
  · exact hleft hk
  · exact hright hk

/-- A turn of SiftDown moves the exception to the child it swaps with. -/
theorem State.OrderedFromExcept.swap {s : State} {b i m : Nat} (h : s.OrderedFromExcept b i) (hs : s.live ≤ 256) (hb : b ≤ i)
    (h0 : 0 < m) (hm : m < s.live) (hi : (m - 1) / 2 = i) (hle : s.rankAt m ≤ s.rankAt i)
    (hleast : ∀ k, 0 < k → k < s.live → (k - 1) / 2 = i → s.rankAt m ≤ s.rankAt k) : (s.swapHeap i m).OrderedFromExcept b m := by
  have hrank := fun k => s.rankAt_swapHeap k (by omega : i < 256) (by omega : m < 256)
  refine ⟨fun k hk0 hk hbk hne => ?others, fun _ _ k hk0 hk hp => ?children⟩ <;> rw [State.live_swapHeap] at hk
  case others =>
    rw [hrank, hrank, if_neg hne]
    by_cases hpi : (k - 1) / 2 = i
    · have := hleast k hk0 hk hpi
      rw [if_pos hpi]
      split_ifs <;> omega
    · have hkm : k ≠ m := by
        rintro rfl
        exact hpi hi
      rw [if_neg hpi, if_neg hkm]
      split_ifs with hki
      · subst hki
        exact h.children hk0 hbk m h0 hm hi
      · exact h.others k hk0 hk hbk hpi
  case children =>
    have hother := h.others k hk0 hk (by omega) (by omega)
    rw [hp] at hother
    rwa [hi, hrank, hrank, if_neg (by omega), if_pos rfl, if_neg (by omega), if_neg (by omega)]

/-- The position grows at every turn, so HEAP_SIZE turns bring SiftDown to an entry in order with its children, or without any. -/
theorem orderedFrom_siftDownLoop {turns b i : Nat} {s : State} (h : s.OrderedFromExcept b i) (hs : s.live ≤ 256) (hb : b ≤ i)
    (hturns : s.live ≤ turns + i) : (siftDownLoop turns i s).OrderedFrom b := by
  induction turns generalizing i s with
  | zero =>
    intro k h0 (hk : k < s.live) hbk
    exact h.others k h0 hk hbk (by omega)
  | succ n ih =>
    obtain ⟨hm, hle, hleast⟩ := s.leastChild_least i
    simp only [siftDownLoop]
    split
    next hstay =>
      rw [hstay] at hleast
      intro k h0 hk hbk
      by_cases hp : (k - 1) / 2 = i
      · exact hp ▸ hleast k h0 hk hp
      · exact h.others k h0 hk hbk hp
    next hmove =>
      obtain ⟨hlt, h0, hp⟩ := hm.resolve_left hmove
      exact ih (h.swap hs hb h0 hlt hp hle hleast) (by simpa using hs) (by omega) (by rw [State.live_swapHeap]; omega)

/-- SiftDown puts position n in order with what is in order behind it. -/
theorem State.OrderedFrom.siftDown {s : State} {n : Nat} (h : s.OrderedFrom (n + 1)) (hs : s.live ≤ 256) : (s.siftDown n).OrderedFrom n :=
  orderedFrom_siftDownLoop ⟨fun k h0 hk _ _ => h k h0 hk (by omega), by omega⟩ hs le_rfl (Nat.le_add_right _ _)

theorem State.OrderedFrom.heapify {n : Nat} {s : State} (h : s.OrderedFrom n) (hs : s.live ≤ 256) : (heapify n s).OrderedFrom 0 := by
  induction n generalizing s with
  | zero => exact h
  | succ n ih => exact ih (h.siftDown hs) (by simpa using hs)

/-- The second half of the live positions has no live children, so Floyd's build starts from there (R111). -/
theorem orderedFrom_half (s : State) : s.OrderedFrom (s.live / 2) := by
  intro k _ _ _
  omega

/-- Distinct entries in order are strictly in order (R105, R106). -/
theorem State.OrderedFrom.heapOrdered {s : State} (h : s.OrderedFrom 0) (hs : s.live ≤ 256) (hd : s.liveHeap.Nodup) : s.HeapOrdered := by
  intro i h0 hi
  have hlen := State.length_liveHeap hs
  have hne : s.heapAt ((i - 1) / 2) ≠ s.heapAt i := by
    rw [← State.getElem_liveHeap (by omega : (i - 1) / 2 < s.liveHeap.length), ← State.getElem_liveHeap (by omega : i < s.liveHeap.length),
      Ne, hd.getElem_inj_iff]
    omega
  exact State.before_iff_rank.2 (lt_of_le_of_ne (h i h0 hi (Nat.zero_le _)) fun e => hne (State.rank_inj e))

/-! ### The symbols HEAP_BUILD loads (R111) -/

/-- The table read in symbol order. -/
theorem State.freq_cells (s : State) : s.freq.cells = symbols.map s.freqOf := by
  refine List.ext_getElem (by simp [symbols, s.freq.size]) fun i h _ => ?_
  have hi : i < 256 := s.freq.size ▸ h
  simp [symbols, State.freqOf, symIndex, Table.get, Nat.mod_eq_of_lt hi]

theorem State.usedSymbols_eq (s : State) : s.usedSymbols = symbols.filter fun v => s.freqOf v != 0 := by
  rw [State.usedSymbols, State.freq_cells, ← List.map_prod_left_eq_zip, List.filter_map, List.map_map]
  exact List.map_id _

theorem toNat_symbols : symbols.map BitVec.toNat = List.range 256 := by
  rw [symbols, List.map_map]
  exact (List.map_congr_left fun v hv => Nat.mod_eq_of_lt (List.mem_range.1 hv)).trans (List.map_id _)

theorem nodup_symbols : symbols.Nodup := .of_map BitVec.toNat (toNat_symbols ▸ List.nodup_range)

theorem State.nodup_usedLeaves (s : State) : (s.usedSymbols.map leafSlot).Nodup := by
  rw [State.usedSymbols_eq]
  exact (nodup_symbols.filter _).map fun _ _ => leafSlot_inj.1

/-! ### The command (R111) -/

theorem heapOrdered_buildHeap (s : State) : s.buildHeap.HeapOrdered := by
  obtain ⟨-, htail, hperm⟩ := buildHeap_law s
  obtain ⟨-, ⟨hlive, -⟩, -⟩ := loadLeaves s.usedSymbols (s := s.discardTree) (by simpa [State.live] using length_usedSymbols_le s)
    (tailNil_discardTree s)
  exact ((orderedFrom_half _).heapify hlive).heapOrdered htail.1 (hperm.nodup_iff.2 s.nodup_usedLeaves)

theorem exec_heapBuild_ready {s : State} (h : s.Ready) :
    exec .heapBuild s = .next (s.accept 0x20 (.enter .heapBuild) []).buildHeap.complete :=
  calc exec .heapBuild s = settle 0x20 (.ret (s.accept 0x20 (.enter .heapBuild) []).buildHeap) := command_ready h.1 h.2.1 h.2.2
    _ = _ := settle_ret_free _ ((congrArg State.pace (buildHeap_law _).1).trans h.2.2)

/-- Settles O17: the loaded leaves are the used symbols (`buildHeap_law`), and Floyd's build orders them (`heapOrdered_buildHeap`). -/
theorem heapBuildMakesHeap : Obligations.HeapBuildMakesHeap := by
  intro s hs
  let a := s.accept 0x20 (.enter .heapBuild) []
  obtain ⟨honly, htail, hperm⟩ := buildHeap_law a
  have hused : a.usedSymbols = symbols.filter fun v => s.freqOf v != 0 := a.usedSymbols_eq
  rw [hused] at hperm
  refine ⟨_, exec_heapBuild_ready hs, hperm, ?live, heapOrdered_buildHeap a, htail, fun j => ?node, ?frame⟩
  case live => exact (State.length_liveHeap htail.1).symm.trans (hperm.length_eq.trans (List.length_map _))
  case node => exact (congrArg (·.get j) honly.node).trans (Table.get_fill _ j)
  case frame => exact (congrArg (fun u => { u.complete with node := a.buildHeap.node }) honly :)

end Sys2Proof.Machine
end

section
/-! PROOFS. TREE_STEP and the corner cases of TREE_BUILD (spec/43_tree_builder.md R113, R114, R116, R117): ExtractMin takes out the least entry,
and it, Insert and the merge keep the heap order (42_heap.md R105, R106, R108 to R110). -/

namespace Sys2Proof.Machine

open Sys2Proof

/-! ### ExtractMin (R109) -/

/-- ExtractMin ends with a SiftDown, which an emptied heap does not move in. -/
theorem State.extractMin_snd (s : State) : s.extractMin.2 = s.dropMin.siftDown 0 := by
  simp only [State.extractMin]
  split
  next h0 => simp only [State.dropMin, if_pos h0]
  next h0 =>
    have hempty : s.dropMin.live = 0 := by rw [State.live_dropMin]; omega
    rw [State.siftDown, hempty]
    simp only [siftDownLoop, State.dropMin, if_neg h0]

theorem heapOnly_dropMin (s : State) : HeapOnly s s.dropMin := by
  simp only [State.dropMin]
  split
  · exact ((heapOnly_setLive _ _).trans (heapOnly_setHeap _ _ _)).trans (heapOnly_setHeap _ _ _)
  · exact (heapOnly_setLive _ _).trans (heapOnly_setHeap _ _ _)

theorem State.rankAt_dropMin {s : State} {k : Nat} (h0 : 0 < k) (hk : k < s.live - 1) : s.dropMin.rankAt k = s.rankAt k := by
  have hat : s.dropMin.heapAt k = s.heapAt k := by
    simp only [State.dropMin]
    rw [State.heapAt_setHeap_ne _ _ (by omega), if_pos (by omega), State.heapAt_setHeap_ne _ _ (by omega), State.heapAt_setLive]
  rw [State.rankAt, hat, (heapOnly_dropMin s).rank, State.rankAt]

/-- Only the new entry at position 0 can be out of order, and SiftDown puts it right. -/
theorem State.OrderedFrom.extractMin {s : State} (h : s.OrderedFrom 0) (hs : s.live ≤ 256) : s.extractMin.2.OrderedFrom 0 := by
  have hlive := State.live_dropMin s
  have hrest : s.dropMin.OrderedFrom 1 := by
    intro k h0 hk hp
    rw [State.rankAt_dropMin (by omega) (by omega), State.rankAt_dropMin h0 (by omega)]
    exact h k h0 (by omega) (Nat.zero_le _)
  rw [State.extractMin_snd]
  exact hrest.siftDown (by omega)

/-- In a heap in order the first entry is the least (R106). -/
theorem State.OrderedFrom.first_least {s : State} (h : s.OrderedFrom 0) {k : Nat} (hk : k < s.live) : s.rankAt 0 ≤ s.rankAt k := by
  induction k using Nat.strong_induction_on with
  | _ k ih =>
    rcases Nat.eq_zero_or_pos k with rfl | h0
    · exact le_rfl
    · exact (ih ((k - 1) / 2) (by omega) (by omega)).trans (h k h0 hk (Nat.zero_le _))

/-- ExtractMin answers an entry that comes before all those it leaves. -/
theorem State.OrderedFrom.extracted_before {s : State} (h : s.OrderedFrom 0) (h0 : 0 < s.live) (hs : s.live ≤ 256) (hd : s.liveHeap.Nodup) :
    ∀ n ∈ s.extractMin.2.liveHeap, s.Before s.extractMin.1 n := by
  have hperm := liveHeap_extractMin_perm h0 hs
  have hnot : s.heapAt 0 ∉ s.extractMin.2.liveHeap := (List.nodup_cons.1 (hperm.nodup_iff.1 hd)).1
  intro n hn
  obtain ⟨k, hk, rfl⟩ := List.getElem_of_mem (hperm.mem_iff.2 (List.mem_cons_of_mem _ hn))
  rw [State.getElem_liveHeap hk] at hn ⊢
  have hle : s.rank (s.heapAt 0) ≤ s.rank (s.heapAt k) := h.first_least (State.length_liveHeap hs ▸ hk)
  refine State.before_iff_rank.2 (lt_of_le_of_ne hle fun e => hnot ?_)
  rwa [show s.heapAt 0 = s.heapAt k from State.rank_inj e]

/-! ### Insert (R108, R110) -/

/-- Every live entry but the one at position i comes after its parent, and the children of i come after the parent of i all the same: SiftUp's
invariant at position i. -/
structure State.OrderedBut (s : State) (i : Nat) : Prop where
  others : ∀ k, 0 < k → k < s.live → k ≠ i → s.rankAt ((k - 1) / 2) ≤ s.rankAt k
  children : 0 < i → ∀ k, 0 < k → k < s.live → (k - 1) / 2 = i → s.rankAt ((i - 1) / 2) ≤ s.rankAt k

/-- A turn of SiftUp moves the exception to the parent it swaps with. -/
theorem State.OrderedBut.swap {s : State} {i p : Nat} (h : s.OrderedBut i) (hs : s.live ≤ 256) (h0 : 0 < i) (hi : i < s.live)
    (hp : (i - 1) / 2 = p) (hlt : s.rankAt i < s.rankAt p) : (s.swapHeap i p).OrderedBut p := by
  have hrank := fun k => s.rankAt_swapHeap k (by omega : i < 256) (by omega : p < 256)
  refine ⟨fun k hk0 hk hne => ?others, fun hp0 k hk0 hk hkp => ?children⟩ <;> rw [State.live_swapHeap] at hk
  case others =>
    rw [hrank k, if_neg hne]
    by_cases hki : k = i
    · rw [if_pos hki, hki, hp, hrank, if_pos rfl]
      exact hlt.le
    · have hle := h.others k hk0 hk hki
      rw [if_neg hki, hrank]
      split_ifs with hparent hchild
      · rw [hparent] at hle
        omega
      · exact hp ▸ h.children h0 k hk0 hk hchild
      · exact hle
  case children =>
    have hgrand := h.others p hp0 (by omega) (by omega)
    rw [hrank, if_neg (by omega), if_neg (by omega), hrank, if_neg (by omega)]
    split_ifs with hki
    · exact hgrand
    · have := h.others k hk0 hk hki
      rw [hkp] at this
      omega

/-- The position falls at every turn, so i turns bring SiftUp to position 0 or to an entry in order with its parent. -/
theorem orderedFrom_siftUpLoop {turns i : Nat} {s : State} (h : s.OrderedBut i) (hs : s.live ≤ 256) (hi : i < s.live) (hturns : i ≤ turns) :
    (siftUpLoop turns i s).OrderedFrom 0 := by
  have stays : ∀ {i : Nat} {s : State}, s.OrderedBut i → (0 < i → s.rankAt ((i - 1) / 2) ≤ s.rankAt i) → s.OrderedFrom 0 :=
    fun {i s} h hle k h0 hk _ => by
      by_cases hki : k = i
      · subst hki
        exact hle h0
      · exact h.others k h0 hk hki
  induction turns generalizing i s with
  | zero => exact stays h (by omega)
  | succ n ih =>
    simp only [siftUpLoop, State.less_iff_rankAt]
    split_ifs with h0 hlt
    · exact stays h (by omega)
    · exact ih (h.swap hs (by omega) hi rfl hlt) (by simpa using hs) (by rw [State.live_swapHeap]; omega) (by omega)
    · exact stays h fun _ => not_lt.1 hlt

theorem State.OrderedFrom.insert {s : State} (h : s.OrderedFrom 0) (hs : s.live < 256) (n : Idx) : (s.insert n).OrderedFrom 0 := by
  have hlive := State.live_appendEntry n hs
  have hrank : ∀ k, k < s.live → (s.appendEntry n).rankAt k = s.rankAt k := fun k hk => by
    rw [State.rankAt, (heapOnly_appendEntry s n).rank, State.appendEntry, State.heapAt_setLive, State.heapAt_setHeap_ne _ _ (by omega),
      State.rankAt]
  refine orderedFrom_siftUpLoop (s := s.appendEntry n) ⟨fun k h0 hk hne => ?_, by omega⟩ (by omega) (by omega) le_rfl
  rw [hrank _ (by omega), hrank _ (by omega)]
  exact h k h0 (by omega) (Nat.zero_le _)

/-! ### Merge (R113) -/

/-- A heap in order, read through ranks. -/
theorem State.HeapOrdered.orderedFrom {s : State} (h : s.HeapOrdered) : s.OrderedFrom 0 := fun k h0 hk _ =>
  (State.before_iff_rank.1 (h k h0 hk)).le

/-- Writing a slot changes the weight of no other node. -/
theorem State.weight_of_set {s u : State} {k n : Idx} {j : Fin 255} {nd : Node} (hj : slot? k = some j) (hnode : u.node = s.node.set j nd)
    (hfreq : u.freq = s.freq) (hn : n ≠ k) : u.weight n = s.weight n := by
  unfold State.weight State.freqOf
  rw [hnode, hfreq]
  cases hs : slot? n with
  | none => rfl
  | some i =>
    have hij : j ≠ i := by
      rintro rfl
      exact hn (BitVec.eq_of_toNat_eq ((slot?_eq_some_iff.1 hs).trans (slot?_eq_some_iff.1 hj).symm))
    simp [Table.get_set_ne _ _ hij]

/-- The weight of a slot just written. -/
theorem State.weight_of_set_self {s u : State} {k : Idx} {j : Fin 255} {nd : Node} (hj : slot? k = some j)
    (hnode : u.node = s.node.set j nd) : u.weight k = nd.freq := by
  simp [State.weight, hj, hnode]

/-- A merge took a and b out of the heap of s, leaving `others`, and joined them at slot NEXT_INT, node RAM entry j, with weight w. -/
structure State.Merges (s t : State) (j : Fin 255) (a b : Idx) (others : List Idx) (w : Word) : Prop where
  slot : slot? s.nextInt = some j
  before : s.liveHeap.Perm (a :: b :: others)
  after : t.liveHeap.Perm (s.nextInt :: others)
  live : t.live = s.live - 1
  weight : (s.weight a).toNat + (s.weight b).toNat < 2 ^ 32 → w = s.weight a + s.weight b ∧ t.draws = s.draws
  frame : t = { s with
    node := s.node.set j ⟨true, a, b, w⟩, nextInt := s.nextInt + 1, heap := t.heap, heapSize := t.heapSize, draws := t.draws }

/-- Everything a merge does, with a and b the entries that two ExtractMin answer. -/
theorem merges_of_merge {s t : State} (hs : s.live ≤ 256) (h2 : 2 ≤ s.live) (h : s.merge = .ok t) :
    ∃ j w, s.Merges t j s.extractMin.1 s.extractMin.2.extractMin.1 s.extractMin.2.extractMin.2.liveHeap w := by
  obtain ⟨j, _, _, w, d, rfl, rfl, hj, hw, ht, hframe⟩ := State.merge_ok h
  have h1 := State.live_extractMin s
  have hl := State.live_extractMin s.extractMin.2
  generalize hu : { s.extractMin.2.extractMin.2 with
      node := s.node.set j ⟨true, s.extractMin.1, s.extractMin.2.extractMin.1, w⟩, nextInt := s.nextInt + 1, draws := d } = u at ht
  have hulive : u.live = s.live - 2 := by subst hu; exact hl.trans (by omega)
  have hdraws : t.draws = d := by rw [hframe]
  refine ⟨j, w, hj, ?before, ?after, ?live, hdraws ▸ hw, hdraws ▸ hframe⟩
  case before => exact (liveHeap_extractMin_perm (by omega) hs).trans ((liveHeap_extractMin_perm (by omega) (by omega)).cons _)
  case after =>
    have := liveHeap_insert_perm s.nextInt (s := u) (by omega)
    subst hu ht
    exact this
  case live => rw [ht, State.live_insert _ _ (by omega)]; omega

/-- A merge keeps the heap order when the next slot is no live entry, so that writing it changes no live weight. -/
theorem State.OrderedFrom.merge {s t : State} (h : s.OrderedFrom 0) (hs : s.live ≤ 256) (h2 : 2 ≤ s.live) (hnew : s.nextInt ∉ s.liveHeap)
    (ht : s.merge = .ok t) : t.OrderedFrom 0 := by
  obtain ⟨_, _, hm⟩ := merges_of_merge hs h2 ht
  obtain ⟨j, a, b, w, d, -, -, hj, -, hins, -⟩ := State.merge_ok ht
  have h1 := State.live_extractMin s
  have hl := State.live_extractMin s.extractMin.2
  have hx : s.extractMin.2.extractMin.2.OrderedFrom 0 := (h.extractMin hs).extractMin (by omega)
  have honly : HeapOnly s s.extractMin.2.extractMin.2 := (heapOnly_extractMin _).trans (heapOnly_extractMin _)
  have hfresh : ∀ n ∈ s.extractMin.2.extractMin.2.liveHeap, n ≠ s.nextInt := by
    rintro n hn rfl
    exact hnew (hm.before.mem_iff.2 (by simp [hn]))
  rw [hins]
  generalize s.extractMin.2.extractMin.2 = x at *
  generalize hu : { x with node := s.node.set j ⟨true, a, b, w⟩, nextInt := s.nextInt + 1, draws := d } = u
  have hulive : u.live = x.live := by subst hu; rfl
  have hrank : ∀ k, k < x.live → u.rankAt k = x.rankAt k := by
    intro k hk
    have hlen := State.length_liveHeap (s := x) (by omega)
    have hne : x.heapAt k ≠ s.nextInt := hfresh _ (State.getElem_liveHeap (hlen ▸ hk) ▸ List.getElem_mem _)
    have hat : u.heapAt k = x.heapAt k := by subst hu; rfl
    have hweight : u.weight (x.heapAt k) = x.weight (x.heapAt k) :=
      State.weight_of_set hj (by subst hu; rw [honly.node]) (by subst hu; rfl) hne
    rw [State.rankAt, State.rank, hat, hweight, State.rankAt, State.rank]
  refine State.OrderedFrom.insert (fun k h0 hk hp => ?_) (by omega) _
  rw [hrank _ (by omega), hrank _ (by omega)]
  exact hx k h0 (by omega) hp

/-- On a heap in order a merge takes the least entry and then the next one, and leaves the heap in order. -/
theorem State.HeapOrdered.merges_least {s t : State} (h : s.HeapOrdered) (hs : s.live ≤ 256) (h2 : 2 ≤ s.live) (hd : s.liveHeap.Nodup)
    (hnew : s.nextInt ∉ s.liveHeap) (ht : s.merge = .ok t) : ∃ j a b others w, s.Merges t j a b others w ∧
      (∀ n ∈ b :: others, s.Before a n) ∧ (∀ n ∈ others, s.Before b n) ∧ t.HeapOrdered := by
  have ho := h.orderedFrom
  have h1 := State.live_extractMin s
  have hp1 := liveHeap_extractMin_perm (by omega) hs
  have hp2 := liveHeap_extractMin_perm (s := s.extractMin.2) (by omega) (by omega)
  have hd1 : s.extractMin.2.liveHeap.Nodup := (List.nodup_cons.1 (hp1.nodup_iff.1 hd)).2
  obtain ⟨j, w, hm⟩ := merges_of_merge hs h2 ht
  refine ⟨j, _, _, _, w, hm, fun n hn => ?first, fun n hn => ?second, ?ordered⟩
  case first => exact ho.extracted_before (by omega) hs hd n (hp2.mem_iff.2 hn)
  case second =>
    have hb := (ho.extractMin hs).extracted_before (by omega) (by omega) hd1 n hn
    simpa only [State.Before, (heapOnly_extractMin s).weight] using hb
  case ordered =>
    have hd2 := (List.nodup_cons.1 (hp2.nodup_iff.1 hd1)).2
    have hnew2 : s.nextInt ∉ s.extractMin.2.extractMin.2.liveHeap := fun hn => hnew (hm.before.mem_iff.2 (by simp [hn]))
    have hlive := hm.live
    exact (ho.merge hs h2 hnew ht).heapOrdered (by omega) (hm.after.nodup_iff.2 (List.nodup_cons.2 ⟨hnew2, hd2⟩))

/-! ### The commands in a ready block -/

theorem State.heapUsable_iff {s : State} : s.heapUsable = true ↔ s.live ≤ 256 ∧ ∀ n ∈ s.liveHeap, n ≠ Config.nil := by
  simp [State.heapUsable, State.liveHeap]

theorem exec_treeStep_ready {s : State} (h : s.Ready) :
    exec .treeStep s = settle 0x30 (.ofExcept (s.accept 0x30 (.enter .treeStep) []).treeStep) := command_ready h.1 h.2.1 h.2.2

theorem exec_treeBuild_ready {s : State} (h : s.Ready) :
    exec .treeBuild s = settle 0x31 (.ofExcept (s.accept 0x31 (.enter .treeBuild) []).treeBuild) := command_ready h.1 h.2.1 h.2.2

theorem exec_treeStep_of_ok {s v : State} (h : s.Ready) (hv : (s.accept 0x30 (.enter .treeStep) []).treeStep = .ok v) :
    exec .treeStep s = .next v.complete := by
  rw [exec_treeStep_ready h, hv]
  exact settle_ret_free _ ((congrArg State.pace (treeStep_lessMerge hv) :).trans h.2.2)

theorem exec_treeBuild_of_ok {s v : State} (h : s.Ready) (hv : (s.accept 0x31 (.enter .treeBuild) []).treeBuild = .ok v) :
    exec .treeBuild s = .next v.complete := by
  rw [exec_treeBuild_ready h, hv]
  exact settle_ret_free _ ((congrArg State.pace (treeBuild_lessTree hv) :).trans h.2.2)

theorem State.treeStep_of_lt {s : State} (h : s.live < 2) : s.treeStep = .ok s := if_pos h

theorem State.treeStep_of_usable {s : State} (h2 : 2 ≤ s.live) (hu : s.heapUsable = true) : s.treeStep = s.merge := by
  simp [State.treeStep, Nat.not_lt.2 h2, hu]

/-- With at most one live entry there is nothing to merge (R115). -/
theorem mergeAll_of_le_one {s : State} (h : s.live ≤ 1) (turns : Nat) : mergeAll turns s = .ok s := by
  cases turns with
  | zero => rfl
  | succ n => simp [mergeAll, Nat.not_lt.2 h]

theorem mergeAll_of_merge {s t : State} (h2 : 2 ≤ s.live) (h : s.merge = .ok t) (turns : Nat) : mergeAll (turns + 1) s = mergeAll turns t := by
  have h1 : s.live > 1 := h2
  simp [mergeAll, h1, h]

theorem State.treeBuild_of_usable {s t : State} (hu : s.heapUsable = true) (h : mergeAll s.live s = .ok t) : s.treeBuild = t.finalizeTree := by
  simp [State.treeBuild, hu, h]

theorem State.treeBuild_of_le_one {s : State} (h : s.live ≤ 1) (hu : s.heapUsable = true) : s.treeBuild = s.finalizeTree :=
  State.treeBuild_of_usable hu (mergeAll_of_le_one h _)

/-- The end of TREE_BUILD, case by case (R115 to R117). -/
theorem State.finalizeTree_empty {s : State} (h : s.live = 0) : s.finalizeTree = .ok { s with root := Config.nil } := if_pos h

theorem State.finalizeTree_leaf {s : State} (h : s.live ≠ 0) (hn : isLeaf (s.heapAt 0) = true) :
    s.finalizeTree = s.synthesize (s.heapAt 0) := by simp [State.finalizeTree, h, hn]

theorem State.finalizeTree_internal {s : State} (h : s.live ≠ 0) (hn : isLeaf (s.heapAt 0) = false) :
    s.finalizeTree = .ok { s with root := s.heapAt 0 } := by simp [State.finalizeTree, h, hn]

/-- A synthesis with a slot to take (R116). -/
theorem State.synthesize_of_slot {s : State} {v : Idx} {j : Fin 255} (h : slot? s.nextInt = some j) : s.synthesize v =
    .ok { s with
      node := s.node.set j ⟨true, v, v, s.weight v⟩, nextInt := s.nextInt + 1, root := s.nextInt, heap := s.heap.set 0 s.nextInt } := by
  have ha : s.alloc ⟨true, v, v, s.weight v⟩ = .ok _ := State.alloc_ok.2 ⟨j, h, rfl⟩
  simp only [State.synthesize, ha]
  rfl

theorem State.heapUsable_empty {s : State} (h : s.live = 0) : s.heapUsable = true :=
  State.heapUsable_iff.2 ⟨by omega, by simp [State.liveHeap, h]⟩

theorem State.heapUsable_single {s : State} (h : s.live = 1) (hn : s.heapAt 0 ≠ Config.nil) : s.heapUsable = true :=
  State.heapUsable_iff.2 ⟨by omega, by simpa [State.liveHeap_of_one h] using hn⟩

/-- TREE_BUILD on a heap with nothing to merge, case by case (R115 to R117). -/
theorem State.treeBuild_empty {s : State} (h : s.live = 0) : s.treeBuild = .ok { s with root := Config.nil } :=
  (State.treeBuild_of_le_one (by omega) (State.heapUsable_empty h)).trans (State.finalizeTree_empty h)

theorem State.treeBuild_internal {s : State} (h : s.live = 1) (hlo : 256 ≤ (s.heapAt 0).toNat) (hhi : (s.heapAt 0).toNat ≤ 510) :
    s.treeBuild = .ok { s with root := s.heapAt 0 } := by
  have hnil : s.heapAt 0 ≠ Config.nil := fun e => by
    rw [e, show Config.nil.toNat = 511 from rfl] at hhi
    omega
  have hnode : isLeaf (s.heapAt 0) = false := decide_eq_false (by omega)
  rw [State.treeBuild_of_le_one h.le (State.heapUsable_single h hnil), State.finalizeTree_internal (by omega) hnode]

theorem State.treeBuild_leaf {s : State} {v : Byte} (h : s.live = 1) (hv : s.heapAt 0 = leafSlot v) (hi : s.nextInt = 256) : s.treeBuild =
    .ok { s with
      node := s.node.set 0 ⟨true, leafSlot v, leafSlot v, s.freqOf v⟩, nextInt := 257, root := 256, heap := s.heap.set 0 256 } := by
  have hleaf := isLeaf_leafSlot v
  have hnil : s.heapAt 0 ≠ Config.nil := fun e => by
    rw [← hv, e] at hleaf
    cases hleaf
  have hslot : slot? s.nextInt = some 0 := slot?_eq_some_iff.2 (by rw [hi]; rfl)
  rw [State.treeBuild_of_le_one h.le (State.heapUsable_single h hnil), State.finalizeTree_leaf (by omega) (hv ▸ hleaf),
    State.synthesize_of_slot hslot, hv, hi, State.weight_leafSlot]
  rfl

/-! ### The statements -/

/-- Settles O18: no merge. -/
theorem treeStepOnSmallHeap : Obligations.TreeStepOnSmallHeap := fun s hs hlt =>
  exec_treeStep_of_ok hs (State.treeStep_of_lt (s := s.accept 0x30 (.enter .treeStep) []) hlt)

/-- Settles O19: TREE_STEP is a merge on a heap in order (`State.HeapOrdered.merges_least`). -/
theorem treeStepMergesTwoLeast : Obligations.TreeStepMergesTwoLeast := by
  intro s hs h2 hle hd hlo hhi hbelow hord
  have hnil : ∀ n ∈ s.liveHeap, n ≠ Config.nil := fun n hn e => by
    have := hbelow n hn
    rw [e, show Config.nil.toNat = 511 from rfl] at this
    omega
  have hslot : slot? s.nextInt = some ⟨s.nextInt.toNat - 256, by omega⟩ := slot?_eq_some_iff.2 (by simp; omega)
  have husable : (s.accept 0x30 (.enter .treeStep) []).heapUsable = true := State.heapUsable_iff.2 ⟨hle, hnil⟩
  obtain ⟨v, hv⟩ := State.merge_of_slot (s := s.accept 0x30 (.enter .treeStep) []) hslot
  have hrun := exec_treeStep_of_ok hs ((State.treeStep_of_usable (s := s.accept 0x30 (.enter .treeStep) []) h2 husable).trans hv)
  obtain ⟨j, a, b, others, w, ⟨hj, hbefore, hafter, hlive, hweight, hframe⟩, hfirst, hsecond, hordered⟩ :=
    State.HeapOrdered.merges_least (s := s.accept 0x30 (.enter .treeStep) []) hord hle h2 hd (fun hm => (hbelow _ hm).false) hv
  exact ⟨v.complete, a, b, others, j, w, hrun, hbefore, hfirst, hsecond, hj, (congrArg State.node hframe :), hweight, hafter, hlive, hordered,
    (congrArg (fun u => { u.complete with node := v.node }) hframe :)⟩

/-- Settles O20: no merge, and no synthesis. -/
theorem treeBuildOnFinishedHeap : Obligations.TreeBuildOnFinishedHeap := fun s hs =>
  ⟨fun h0 => exec_treeBuild_of_ok hs (State.treeBuild_empty (s := s.accept 0x31 (.enter .treeBuild) []) h0),
    fun h1 hlo hhi => exec_treeBuild_of_ok hs (State.treeBuild_internal (s := s.accept 0x31 (.enter .treeBuild) []) h1 hlo hhi)⟩

/-- Settles O21: no merge, and the synthesis at slot 256. -/
theorem treeBuildSingleSymbol : Obligations.TreeBuildSingleSymbol := fun s _ hs h1 hv hi =>
  exec_treeBuild_of_ok hs (State.treeBuild_leaf (s := s.accept 0x31 (.enter .treeBuild) []) h1 hv hi)

end Sys2Proof.Machine
end

section
/-! PROOFS. TREE_BUILD after TREE_STEP gives what TREE_BUILD alone gives (spec/43_tree_builder.md R113 to R115): the merge of the one is the first
merge of the other, whichever command was accepted. -/

namespace Sys2Proof.Machine

open Sys2Proof

/-! ### The heap procedures do not read what an acceptance writes (R92) -/

section accept
variable (s : State) (op : Byte) (pos : Pos) (todo : List Stage)

theorem heapAt_accept (k : Nat) : (s.accept op pos todo).heapAt k = s.heapAt k := rfl

theorem setHeap_accept (i : Nat) (n : Idx) : (s.accept op pos todo).setHeap i n = (s.setHeap i n).accept op pos todo := by
  unfold State.setHeap
  split <;> rfl

theorem swapHeap_accept (i j : Nat) : (s.accept op pos todo).swapHeap i j = (s.swapHeap i j).accept op pos todo := by
  simp only [State.swapHeap, setHeap_accept, heapAt_accept]

theorem siftDownLoop_accept (turns i : Nat) : siftDownLoop turns i (s.accept op pos todo) = (siftDownLoop turns i s).accept op pos todo := by
  induction turns generalizing i s with
  | zero => rfl
  | succ n ih =>
    have hleast : (s.accept op pos todo).leastChild i = s.leastChild i := rfl
    simp only [siftDownLoop, hleast, swapHeap_accept, ih]
    split <;> rfl

theorem siftUpLoop_accept (turns i : Nat) : siftUpLoop turns i (s.accept op pos todo) = (siftUpLoop turns i s).accept op pos todo := by
  induction turns generalizing i s with
  | zero => rfl
  | succ n ih =>
    have hless : ∀ a b, (s.accept op pos todo).less a b = s.less a b := fun _ _ => rfl
    simp only [siftUpLoop, heapAt_accept, hless, swapHeap_accept, ih]
    split
    · rfl
    · split <;> rfl

theorem dropMin_accept : (s.accept op pos todo).dropMin = s.dropMin.accept op pos todo := by
  have hlive : (s.accept op pos todo).live = s.live := rfl
  have hset : ∀ n, (s.accept op pos todo).setLive n = (s.setLive n).accept op pos todo := fun _ => rfl
  simp only [State.dropMin, hlive, hset, heapAt_accept]
  split <;> simp only [setHeap_accept]

theorem extractMin_accept : (s.accept op pos todo).extractMin = (s.extractMin.1, s.extractMin.2.accept op pos todo) := by
  refine Prod.ext rfl ?_
  rw [State.extractMin_snd, dropMin_accept, State.extractMin_snd]
  exact siftDownLoop_accept _ op pos todo _ 0

theorem insert_accept (n : Idx) : (s.accept op pos todo).insert n = (s.insert n).accept op pos todo := by
  have happend : (s.accept op pos todo).appendEntry n = (s.appendEntry n).accept op pos todo :=
    congrArg (·.setLive (s.live + 1)) (setHeap_accept s op pos todo s.live n)
  exact (congrArg (siftUpLoop s.live s.live) happend).trans (siftUpLoop_accept _ op pos todo _ _)

theorem mergedWeight_accept (a b : Idx) :
    (s.accept op pos todo).mergedWeight a b = ((s.mergedWeight a b).1, (s.mergedWeight a b).2.accept op pos todo) := by
  by_cases h : (s.weight a).toNat + (s.weight b).toNat < 2 ^ 32
  · rw [State.mergedWeight_fits h]
    exact State.mergedWeight_fits (s := s.accept op pos todo) h
  · rw [State.mergedWeight_free h]
    exact State.mergedWeight_free (s := s.accept op pos todo) h

variable {s}

theorem alloc_accept {t : State} {nd : Node} (h : s.alloc nd = .ok t) : (s.accept op pos todo).alloc nd = .ok (t.accept op pos todo) := by
  obtain ⟨j, hj, rfl⟩ := State.alloc_ok.1 h
  exact State.alloc_ok.2 ⟨j, hj, rfl⟩

theorem merge_accept {t : State} (h : s.merge = .ok t) : (s.accept op pos todo).merge = .ok (t.accept op pos todo) := by
  simp only [State.merge, extractMin_accept, mergedWeight_accept] at h ⊢
  split at h
  next u hu =>
    obtain rfl := Except.ok.inj h
    simp only [alloc_accept op pos todo hu, insert_accept, State.accept_nextInt]
  · cases h

end accept

/-! ### TREE_STEP and TREE_BUILD, case by case (R114, R115) -/

theorem State.treeStep_ok {s t : State} (h : s.treeStep = .ok t) : s.live < 2 ∧ t = s ∨ 2 ≤ s.live ∧ s.heapUsable = true ∧ s.merge = .ok t := by
  unfold State.treeStep at h
  split at h
  next hlt => exact .inl ⟨hlt, (Except.ok.inj h).symm⟩
  next hlt =>
    split at h
    next hu => exact .inr ⟨not_lt.1 hlt, hu, h⟩
    · cases h

theorem State.treeBuild_ok {s t : State} (h : s.treeBuild = .ok t) : ∃ u, mergeAll s.live s = .ok u ∧ u.finalizeTree = .ok t := by
  unfold State.treeBuild at h
  split at h
  · split at h
    next u hu => exact ⟨u, hu, h⟩
    · cases h
  · cases h

theorem exec_treeStep_next {s t : State} (hs : s.Ready) (h : exec .treeStep s = .next t) :
    ∃ v, (s.accept 0x30 (.enter .treeStep) []).treeStep = .ok v ∧ t = v.complete := by
  cases hv : (s.accept 0x30 (.enter .treeStep) []).treeStep with
  | ok v => exact ⟨v, rfl, (Host.Outcome.next.inj ((exec_treeStep_of_ok hs hv).symm.trans h)).symm⟩
  | error f =>
    rw [exec_treeStep_ready hs, hv] at h
    cases h

theorem exec_treeBuild_next {s t : State} (hs : s.Ready) (h : exec .treeBuild s = .next t) :
    ∃ v, (s.accept 0x31 (.enter .treeBuild) []).treeBuild = .ok v ∧ t = v.complete := by
  cases hv : (s.accept 0x31 (.enter .treeBuild) []).treeBuild with
  | ok v => exact ⟨v, rfl, (Host.Outcome.next.inj ((exec_treeBuild_of_ok hs hv).symm.trans h)).symm⟩
  | error f =>
    rw [exec_treeBuild_ready hs, hv] at h
    cases h

/-! ### TREE_BUILD after TREE_STEP (R114) -/

/-- A merge leaves a heap that can be merged: its new entry is a slot. -/
theorem heapUsable_merge {s t : State} (hu : s.heapUsable = true) (h2 : 2 ≤ s.live) (h : s.merge = .ok t) : t.heapUsable = true := by
  obtain ⟨hle, hnil⟩ := State.heapUsable_iff.1 hu
  obtain ⟨j, w, hm⟩ := merges_of_merge hle h2 h
  refine State.heapUsable_iff.2 ⟨by rw [hm.live]; omega, fun n hn => ?_⟩
  rcases List.mem_cons.1 (hm.after.mem_iff.1 hn) with rfl | hn
  · intro e
    have := hm.slot
    rw [e] at this
    cases this
  · exact hnil n (hm.before.mem_iff.2 (by simp [hn]))

/-- The merge of a TREE_STEP is the first one of a TREE_BUILD. -/
theorem treeBuild_of_treeStep {s v w : State} (op : Byte) (pos : Pos) (todo : List Stage) (hv : s.treeStep = .ok v)
    (hw : (s.accept op pos todo).treeBuild = .ok w) : (v.accept op pos todo).treeBuild = .ok w := by
  rcases State.treeStep_ok hv with ⟨-, rfl⟩ | ⟨h2, hu, hm⟩
  · exact hw
  · obtain ⟨x, hx, hfin⟩ := State.treeBuild_ok hw
    obtain ⟨_, _, hmerges⟩ := merges_of_merge (State.heapUsable_iff.1 hu).1 h2 hm
    have hlive : (s.accept op pos todo).live = v.live + 1 := by
      have := hmerges.live
      show s.live = v.live + 1
      omega
    rw [hlive, mergeAll_of_merge (s := s.accept op pos todo) h2 (merge_accept op pos todo hm)] at hx
    have husable : (v.accept op pos todo).heapUsable = true := (heapUsable_merge hu h2 hm :)
    exact (State.treeBuild_of_usable husable hx).trans hfin

/-- Settles O23: the merge reads nothing that the acceptance of the second command writes (`merge_accept`). -/
theorem treeStepThenBuildIsBuild : Obligations.TreeStepThenBuildIsBuild := by
  intro s t u hs ht hu
  obtain ⟨v, hv, rfl⟩ := exec_treeStep_next hs ht
  obtain ⟨w, hw, rfl⟩ := exec_treeBuild_next hs hu
  have hkeeps : v.lessMerge = (s.accept 0x30 (.enter .treeStep) []).lessMerge := treeStep_lessMerge hv
  have hready : v.complete.Ready :=
    ⟨rfl, (congrArg (fun x => x.err.code) hkeeps :).trans hs.2.1, (congrArg State.pace hkeeps :).trans hs.2.2⟩
  have hagain : v.complete.accept 0x31 (.enter .treeBuild) [] = v.accept 0x31 (.enter .treeBuild) [] := rfl
  have hbefore : (s.accept 0x30 (.enter .treeStep) []).accept 0x31 (.enter .treeBuild) [] = s.accept 0x31 (.enter .treeBuild) [] := rfl
  refine exec_treeBuild_of_ok hready ?_
  rw [← hbefore] at hw
  rw [hagain]
  exact treeBuild_of_treeStep _ _ _ hv hw

end Sys2Proof.Machine
end

section
/-! PROOFS. The tree that TREE_BUILD makes (spec/43_tree_builder.md R115, R118).

The idea: between two merges the live heap entries are trees with exactly the given leaves, which fill the allocated slots (`State.Grove`); every
merge joins two of them, so at the end one is left. -/

namespace Sys2Proof.Machine

open Sys2Proof

/-! ### Trees with given leaves and weights -/

/-- The sum of the counts of these symbols. -/
def State.countOf (s : State) (vs : List Byte) : Nat := (vs.map fun v => (s.freqOf v).toNat).sum

theorem State.countOf_append (s : State) (us vs : List Byte) : s.countOf (us ++ vs) = s.countOf us + s.countOf vs := by
  simp [State.countOf]

theorem State.countOf_perm (s : State) {us vs : List Byte} (h : us.Perm vs) : s.countOf us = s.countOf vs := (h.map _).sum_eq

theorem State.countOf_congr {s u : State} (h : u.freq = s.freq) (vs : List Byte) : u.countOf vs = s.countOf vs := by
  unfold State.countOf State.freqOf
  rw [h]

/-- Slot n holds the tree t, within the allocated slots; with the counts of its leaves as its weight, when the counts of all leaves vs fit
32 bits (log 7). -/
def State.Bears (s : State) (vs : List Byte) (t : CodeTree) (n : Idx) : Prop :=
  s.DenotesBelow s.nextInt.toNat t n ∧ (s.countOf vs < 2 ^ 32 → (s.weight n).toNat = s.countOf t.leaves)

/-- The entries of a list are trees that use up the allocated slots and have exactly the leaves vs. -/
def State.Grove (s : State) (vs : List Byte) (l : List Idx) : Prop :=
  ∃ ts, List.Forall₂ (s.Bears vs) ts l ∧ s.nextInt.toNat = 256 + (ts.map CodeTree.internals).sum ∧ (ts.flatMap CodeTree.leaves).Perm vs

theorem State.Grove.perm {s : State} {vs : List Byte} {l m : List Idx} (h : s.Grove vs l) (p : l.Perm m) : s.Grove vs m := by
  obtain ⟨ts, hts, hsum, hleaves⟩ := h
  obtain ⟨us, hus, hp⟩ := List.perm_comp_forall₂ p.symm hts.flip
  exact ⟨us, hus.flip, by rw [hsum, (hp.map CodeTree.internals).sum_eq], (hp.flatMap_right _).trans hleaves⟩

theorem grove_leaves {s : State} (vs : List Byte) (h : s.nextInt = 256) : s.Grove vs (vs.map leafSlot) := by
  refine ⟨vs.map .leaf, ?_, ?_, ?_⟩
  · rw [List.forall₂_map_left_iff, List.forall₂_map_right_iff]
    refine List.forall₂_same.2 fun v _ => ⟨rfl, fun _ => ?_⟩
    simp [State.countOf, CodeTree.leaves]
  · have hnone : (vs.map (CodeTree.internals ∘ CodeTree.leaf)).sum = 0 := List.sum_eq_zero (by simp [CodeTree.internals])
    rw [h, List.map_map, hnone]
    rfl
  · rw [List.flatMap_map]
    exact .of_eq (List.flatMap_singleton' vs)

/-- Every tree lies below slot k. -/
theorem State.DenotesBelow.lt {s : State} {k : Nat} {t : CodeTree} {n : Idx} (h : s.DenotesBelow k t n) (hk : 256 ≤ k) : n.toNat < k := by
  cases t with
  | leaf v =>
    rw [show n = leafSlot v from h, leafSlot_toNat]
    have := v.isLt
    omega
  | node l r => exact h.1

/-- The next slot written: the other trees stay. -/
theorem State.Bears.alloc {s u : State} {vs : List Byte} {t : CodeTree} {n : Idx} {j : Fin 255} {nd : Node} (h : s.Bears vs t n)
    (hj : slot? s.nextInt = some j) (hnode : u.node = s.node.set j nd) (hnext : u.nextInt = s.nextInt + 1) (hfreq : u.freq = s.freq) :
    u.Bears vs t n := by
  obtain ⟨ht, hw⟩ := h
  obtain ⟨hsucc, hslot⟩ := nextInt_succ hj
  have hlt := ht.lt (by omega)
  refine ⟨ht.mono (by rw [hnext, hsucc]; omega) fun i hi => ?_, fun hfits => ?_⟩
  · rw [hnode, Table.get_set_ne]
    rintro rfl
    omega
  · rw [State.countOf_congr hfreq] at hfits ⊢
    have hne : n ≠ s.nextInt := by
      rintro rfl
      exact hlt.false
    rw [State.weight_of_set hj hnode hfreq hne, hw hfits]

section join
variable {s u : State} {vs : List Byte} {a b : Idx} {rest : List Idx}

/-- The weights of two of the trees sum below 2^32 when the counts of all leaves do. -/
theorem State.Grove.weights_fit (h : s.Grove vs (a :: b :: rest)) (hfits : s.countOf vs < 2 ^ 32) :
    (s.weight a).toNat + (s.weight b).toNat < 2 ^ 32 := by
  obtain ⟨ts, hts, -, hleaves⟩ := h
  rcases hts with _ | ⟨⟨-, ha⟩, _ | ⟨⟨-, hb⟩, -⟩⟩
  have hsum := s.countOf_perm hleaves
  simp only [List.flatMap_cons, State.countOf_append] at hsum
  have := ha hfits
  have := hb hfits
  omega

/-- Two trees joined at the next slot (R113). -/
theorem State.Grove.join {j : Fin 255} {w : Word} (h : s.Grove vs (a :: b :: rest)) (hj : slot? s.nextInt = some j)
    (hnode : u.node = s.node.set j ⟨true, a, b, w⟩) (hnext : u.nextInt = s.nextInt + 1) (hfreq : u.freq = s.freq)
    (hw : (s.weight a).toNat + (s.weight b).toNat < 2 ^ 32 → w = s.weight a + s.weight b) : u.Grove vs (s.nextInt :: rest) := by
  have hfit := h.weights_fit
  obtain ⟨ts, hts, hsum, hleaves⟩ := h
  obtain ⟨hsucc, hslot⟩ := nextInt_succ hj
  rcases hts with _ | ⟨ha, _ | ⟨hb, hrest⟩⟩
  rename_i ta tb ts
  have hnew : u.Bears vs (.node ta tb) s.nextInt := by
    refine ⟨⟨by rw [hnext, hsucc]; omega, j, hj, by simp [hnode], ?_, ?_⟩, fun hfits => ?_⟩
    · simpa [hnode] using (ha.alloc hj hnode hnext hfreq).1
    · simpa [hnode] using (hb.alloc hj hnode hnext hfreq).1
    · rw [State.countOf_congr hfreq] at hfits ⊢
      have hlt := hfit hfits
      rw [State.weight_of_set_self hj hnode, hw hlt, BitVec.toNat_add, Nat.mod_eq_of_lt hlt, ha.2 hfits, hb.2 hfits, ← State.countOf_append]
      rfl
  refine ⟨.node ta tb :: ts, .cons hnew (hrest.imp fun _ _ ht => ht.alloc hj hnode hnext hfreq), ?_, ?_⟩
  · rw [hnext, hsucc, hsum]
    simp only [List.map_cons, List.sum_cons, CodeTree.internals]
    omega
  · simpa [CodeTree.leaves] using hleaves

end join

/-! ### The merges of TREE_BUILD (R115) -/

/-- Merging never stops, and HEAP_SIZE turns leave at most one live entry, when a merge never stops and keeps what that rests on. -/
theorem mergeAll_progress {P : State → Prop} (hP : ∀ s, P s → 2 ≤ s.live → ∃ t, s.merge = .ok t ∧ P t ∧ t.live = s.live - 1) (turns : Nat)
    {s : State} (hs : P s) : ∃ t, mergeAll turns s = .ok t ∧ P t ∧ (s.live ≤ turns → t.live ≤ 1) := by
  induction turns generalizing s with
  | zero => exact ⟨s, rfl, hs, by omega⟩
  | succ n ih =>
    rcases Nat.lt_or_ge s.live 2 with h1 | h2
    · exact ⟨s, mergeAll_of_le_one (by omega) _, hs, by omega⟩
    · obtain ⟨u, hu, hPu, hlive⟩ := hP s hs h2
      obtain ⟨t, ht, hPt, hlt⟩ := ih hPu
      exact ⟨t, (mergeAll_of_merge h2 hu n).trans ht, hPt, fun h => hlt (by omega)⟩

/-- TREE_BUILD, started in s, has come to t: the live entries have the leaves vs, every merge has taken one slot and one live entry, and no
free word was drawn when the counts fit. -/
structure State.Building (s : State) (vs : List Byte) (t : State) : Prop where
  grove : t.Grove vs t.liveHeap
  room : t.nextInt.toNat + t.live = 256 + vs.length
  live : 0 < t.live
  frame : t.lessMerge = s.lessMerge
  draws : s.countOf vs < 2 ^ 32 → t.draws = s.draws

theorem State.Building.merge {s t : State} {vs : List Byte} (hvs : vs.length ≤ 256) (h : s.Building vs t) (h2 : 2 ≤ t.live) :
    ∃ u, t.merge = .ok u ∧ s.Building vs u ∧ u.live = t.live - 1 := by
  obtain ⟨hgrove, hroom, -, hframe, hdraws⟩ := h
  have hlow : 256 ≤ t.nextInt.toNat := by
    obtain ⟨ts, -, hsum, -⟩ := hgrove
    omega
  obtain ⟨u, hu⟩ := State.merge_of_slot (s := t) (j := ⟨t.nextInt.toNat - 256, by omega⟩) (slot?_eq_some_iff.2 (by simp; omega))
  obtain ⟨j, w, hm⟩ := merges_of_merge (by omega) h2 hu
  obtain ⟨hj, hbefore, hafter, hlive, hweight, hmframe⟩ := hm
  have hfreq : u.freq = t.freq := by rw [hmframe]
  have hnode := (congrArg State.node hmframe :)
  have hnext : u.nextInt = t.nextInt + 1 := by rw [hmframe]
  have hg := hgrove.perm hbefore
  refine ⟨u, hu, ⟨(hg.join hj hnode hnext hfreq fun hlt => (hweight hlt).1).perm hafter.symm, ?_, by omega,
    (merge_lessMerge hu).trans hframe, fun hfits => ?_⟩, hlive⟩
  · rw [hnext, (nextInt_succ hj).1]
    omega
  · have hcount : t.countOf vs = s.countOf vs := State.countOf_congr (congrArg State.freq hframe :) vs
    exact (hweight (hg.weights_fit (hcount ▸ hfits))).2.trans (hdraws hfits)

/-- With one live entry left, it is a tree with all the leaves. -/
theorem State.Building.tree {s t : State} {vs : List Byte} (h : s.Building vs t) (h1 : t.live = 1) (hvs : 2 ≤ vs.length) :
    ∃ tree, t.Bears vs tree (t.heapAt 0) ∧ tree.leaves.Perm vs ∧ tree.internals = vs.length - 1 ∧ isLeaf (t.heapAt 0) = false := by
  obtain ⟨⟨ts, hts, hsum, hleaves⟩, hroom, -⟩ := h
  rw [State.liveHeap_of_one h1] at hts
  rcases hts with _ | ⟨ht, _ | _⟩
  rename_i tree
  simp only [List.map_cons, List.map_nil, List.sum_cons, List.sum_nil, List.flatMap_cons, List.flatMap_nil, List.append_nil] at hsum hleaves
  refine ⟨tree, ht, hleaves, by omega, ?_⟩
  by_contra hleaf
  have hlen := hleaves.length_eq
  rw [ht.1.eq_leaf (by simpa using hleaf)] at hlen
  simp [CodeTree.leaves] at hlen
  omega

/-- From a heap of at least two leaves TREE_BUILD merges until one tree is left, and makes it the root. -/
theorem treeBuild_of_leaves {s : State} {vs : List Byte} (hlive : s.live = vs.length) (hheap : s.liveHeap = vs.map leafSlot)
    (hvs : 2 ≤ vs.length) (hnext : s.nextInt = 256) : ∃ u tree, s.treeBuild = .ok { u with root := u.heapAt 0 } ∧ s.Building vs u ∧
      u.live = 1 ∧ u.Bears vs tree (u.heapAt 0) ∧ tree.leaves.Perm vs ∧ tree.internals = vs.length - 1 ∧ isLeaf (u.heapAt 0) = false := by
  have hlen : vs.length ≤ 256 := by
    have hle : s.liveHeap.length ≤ s.heap.cells.length := List.length_take_le' _ _
    rwa [hheap, List.length_map, s.heap.size] at hle
  have husable : s.heapUsable = true := by
    refine State.heapUsable_iff.2 ⟨by omega, fun n hn e => ?_⟩
    obtain ⟨v, -, rfl⟩ := List.mem_map.1 (hheap ▸ hn)
    have hleaf := isLeaf_leafSlot v
    rw [e] at hleaf
    cases hleaf
  have hstart : s.Building vs s := ⟨hheap ▸ grove_leaves vs hnext, by rw [hnext, hlive]; rfl, by omega, rfl, fun _ => rfl⟩
  obtain ⟨u, hu, hbuilt, hone⟩ := mergeAll_progress (fun t ht h2 => ht.merge hlen h2) s.live hstart
  have h1 : u.live = 1 := le_antisymm (hone le_rfl) hbuilt.live
  obtain ⟨tree, hbears, hleaves, hinternals, hnode⟩ := hbuilt.tree h1 hvs
  exact ⟨u, tree, (State.treeBuild_of_usable husable hu).trans (State.finalizeTree_internal (by omega) hnode), hbuilt, h1, hbears, hleaves,
    hinternals, hnode⟩

/-- Settles O22: the merges keep `State.Building`, and the last live entry becomes ROOT (`treeBuild_of_leaves`). -/
theorem treeBuildMakesTree : Obligations.TreeBuildMakesTree := by
  intro s vs hs hlive hheap _ hvs hnext
  obtain ⟨u, tree, hbuild, ⟨-, hroom, -, hframe, hdraws⟩, h1, ⟨hdenotes, hweight⟩, hleaves, hinternals, hnode⟩ :=
    treeBuild_of_leaves (s := s.accept 0x31 (.enter .treeBuild) []) hlive hheap hvs hnext
  have hcount : u.countOf vs = s.countOf vs := State.countOf_congr (congrArg State.freq hframe :) vs
  have hnodes : tree.internals ≤ 255 := by
    have : u.nextInt.toNat < 512 := u.nextInt.isLt
    omega
  refine ⟨State.complete { u with root := u.heapAt 0 }, tree, exec_treeBuild_of_ok hs hbuild, ⟨hdenotes.eq_node hnode, hnodes, ?denotes⟩, hleaves,
    hinternals, ?slots, h1, rfl, fun hfits => ⟨?weight, hdraws hfits⟩, ?frame⟩
  case denotes => exact State.Denotes.congr (s := u) (u := State.complete { u with root := u.heapAt 0 }) rfl hdenotes.denotes
  case slots =>
    show u.nextInt.toNat = _
    omega
  case weight =>
    calc (u.weight (u.heapAt 0)).toNat = u.countOf tree.leaves := hweight (by rw [hcount]; exact hfits)
      _ = u.countOf vs := u.countOf_perm hleaves
      _ = s.countOf vs := hcount
  case frame => exact (congrArg (fun y => { (y.withMerge u).complete with root := u.heapAt 0 }) hframe :)

end Sys2Proof.Machine
end

section
/-! PROOFS. No command stops the machine from a state as commands leave it (spec/43_tree_builder.md R118; 44_code_table.md R121; 45_tree_codec.md
R123, R125; 47_bit_unpacker.md R135).

The ideas: a forest that uses up the slots leaves one for every merge; the entries of a traversal stack are trees with at most 256 roots and internal
nodes together, so a push finds room; and UNPACK's position is always an internal node of the tree. -/

namespace Sys2Proof.Machine

open Sys2Proof

/-! ### Bodies that have a meaning -/

/-- The body ends or pauses in some state: it has a meaning (log 13). -/
def Run.Defined : Run → Prop
  | .ret _ | .reset _ | .raised _ _ _ | .wait _ _ _ => True
  | .stuck _ => False

/-- One iteration of a loop has a meaning, and goes on in a state with J if it goes on. -/
def LoopStep.Defined {σ : Type} (J : State → Prop) : LoopStep σ → Prop
  | .more _ s => J s
  | .stop r => r.Defined

/-- What a body with a meaning leaves is a next state. -/
theorem settle_of_defined (op : Byte) {r : Run} (h : r.Defined) : ∃ t, settle op r = .next t := by
  cases r with
  | stuck f => exact h.elim
  | _ => exact ⟨_, rfl⟩

theorem defined_ofExcept {x : Except Fault State} (h : ∃ t, x = .ok t) : (Run.ofExcept x).Defined := by
  obtain ⟨t, rfl⟩ := h
  trivial

/-- A token loop has a meaning when every iteration does and keeps what that rests on. -/
theorem defined_overTokens {σ : Type} {pos : σ → Pos} {body : σ → Token → State → LoopStep σ} {J : State → Prop}
    (hconsume : ∀ s tok ts, J s → J (s.consume tok ts)) (hbody : ∀ x tok s, J s → (body x tok s).Defined J) (ts : List Token) (x : σ)
    {s : State} (h : J s) : (overTokens pos body ts x s).Defined := by
  induction ts generalizing x s with
  | nil => trivial
  | cons tok ts ih =>
    have hstep := hbody x tok (s.consume tok ts) (hconsume s tok ts h)
    cases hh : s.held with
    | true =>
      rw [overTokens_held hh]
      trivial
    | false =>
      cases hb : body x tok (s.consume tok ts) with
      | more x' s' =>
        rw [hb] at hstep
        rw [overTokens_more hh hb]
        exact ih x' hstep
      | stop r =>
        rw [hb] at hstep
        rw [overTokens_stop hh hb]
        exact hstep

/-! ### FREQ_COUNT and PACK, which have a meaning in every state (R103, R130) -/

theorem freqCountBody_defined (s : State) : (freqCountBody s).Defined := by
  refine defined_overTokens (J := fun _ => True) (fun _ _ _ _ => trivial) (fun _ tok u _ => ?_) _ _ trivial
  cases tok with
  | fail => trivial
  | endOfPass => trivial
  | byte b =>
    simp only [countToken]
    split <;> trivial

theorem putBits_defined (b : Byte) (n : Nat) (s : State) : (putBits b n s).Defined fun _ => True := by
  induction n generalizing s with
  | zero => trivial
  | succ n ih =>
    simp only [putBits]
    split
    next t _ => exact ih t
    next => trivial
    next => trivial

theorem flushPartial_defined (s : State) : (flushPartial s).Defined := by
  unfold flushPartial
  split
  · trivial
  · split <;> trivial

theorem packBody_defined (s : State) : (packBody s).Defined := by
  refine defined_overTokens (J := fun _ => True) (fun _ _ _ _ => trivial) (fun _ tok u _ => ?_) _ _ trivial
  cases tok with
  | fail => trivial
  | endOfPass => exact flushPartial_defined u
  | byte b =>
    simp only [packToken]
    split
    · trivial
    · exact putBits_defined _ _ _

/-! ### TREE_STEP and TREE_BUILD (R113 to R118) -/

/-- The live entries of a good heap are nodes. -/
theorem State.TreesOk.heapUsable {s : State} (h : s.TreesOk) : s.heapUsable = true := by
  obtain ⟨⟨hle, -⟩, -, -, h0 | ⟨⟨ts, hts, hsum⟩, -⟩⟩ := treesOk_iff.1 h
  · exact State.heapUsable_empty h0
  · have hlt : ∀ n ∈ s.liveHeap, n.toNat < s.nextInt.toNat :=
      ((List.forall₂_and_left _ _).1 (hts.flip.imp fun _ _ ht => ⟨ht.lt (by omega), ht⟩)).1
    refine State.heapUsable_iff.2 ⟨hle, fun n hn e => ?_⟩
    have hnil := hlt n hn
    rw [e, show Config.nil.toNat = 511 from rfl] at hnil
    have : s.nextInt.toNat < 512 := s.nextInt.isLt
    omega

/-- A forest that uses up the slots below NEXT_INT leaves a slot for a merge (R118). -/
theorem State.TreesOk.merge {s : State} (h : s.TreesOk) (h2 : 2 ≤ s.live) : ∃ t, s.merge = .ok t ∧ t.TreesOk ∧ t.live = s.live - 1 := by
  obtain ⟨⟨ts, -, hsum⟩, hroom⟩ := (treesOk_iff.1 h).2.2.2.resolve_left (by omega)
  obtain ⟨t, ht⟩ := State.merge_of_slot (s := s) (j := ⟨s.nextInt.toNat - 256, by omega⟩) (slot?_eq_some_iff.2 (by simp; omega))
  exact ⟨t, ht, treesOk_merge h h2 ht, (merged_of_merge h.tail h2 ht).live⟩

theorem State.TreesOk.treeStep {s : State} (h : s.TreesOk) : ∃ t, s.treeStep = .ok t := by
  rcases Nat.lt_or_ge s.live 2 with hlt | h2
  · exact ⟨s, State.treeStep_of_lt hlt⟩
  · obtain ⟨t, ht, -⟩ := h.merge h2
    exact ⟨t, (State.treeStep_of_usable h2 h.heapUsable).trans ht⟩

/-- A lone leaf has allocated nothing, so the synthesis finds slot 256 (R116). -/
theorem State.TreesOk.finalizeTree {s : State} (h : s.TreesOk) (h1 : s.live ≤ 1) : ∃ t, s.finalizeTree = .ok t := by
  rcases Nat.eq_zero_or_pos s.live with h0 | hpos
  · exact ⟨_, State.finalizeTree_empty h0⟩
  · cases hleaf : isLeaf (s.heapAt 0) with
    | false => exact ⟨_, State.finalizeTree_internal hpos.ne' hleaf⟩
    | true =>
      obtain ⟨⟨ts, hts, hsum⟩, -⟩ := (treesOk_iff.1 h).2.2.2.resolve_left hpos.ne'
      rw [State.liveHeap_of_one (le_antisymm h1 hpos)] at hts
      rcases hts with _ | ⟨ht, _ | _⟩
      rw [ht.eq_leaf hleaf] at hsum
      have hslot : slot? s.nextInt = some 0 := slot?_eq_some_iff.2 hsum
      exact ⟨_, (State.finalizeTree_leaf hpos.ne' hleaf).trans (State.synthesize_of_slot hslot)⟩

theorem State.TreesOk.treeBuild {s : State} (h : s.TreesOk) : ∃ t, s.treeBuild = .ok t := by
  obtain ⟨u, hu, huok, hone⟩ := mergeAll_progress (fun _ ht h2 => ht.merge h2) s.live h
  obtain ⟨t, ht⟩ := huok.finalizeTree (hone le_rfl)
  exact ⟨t, (State.treeBuild_of_usable h.heapUsable hu).trans ht⟩

/-! ### A traversal stack of trees (R37, R121) -/

/-- The entries of the stack are the trees ts, top first. Roots and internal nodes together are at most 256, and no path below an entry takes its
code beyond 255 bits. -/
structure State.Stacked (s : State) (ts : List CodeTree) : Prop where
  trees : List.Forall₂ (fun t e => s.Denotes t e.node ∧ e.len.toNat + t.internals ≤ 255) ts s.stack
  room : ts.length + (ts.map CodeTree.internals).sum ≤ 256

theorem State.Stacked.congr {s u : State} {ts : List CodeTree} (h : s.Stacked ts) (hn : u.node = s.node) (hs : u.stack = s.stack) :
    u.Stacked ts :=
  ⟨hs ▸ h.trees.imp fun _ _ ht => ⟨ht.1.congr hn, ht.2⟩, h.room⟩

/-- A walk starts with the tree at ROOT. -/
theorem State.HasTree.stacked {s u : State} {t : CodeTree} (h : s.HasTree t) (hn : u.node = s.node) (hs : u.stack = [{ node := s.root }]) :
    u.Stacked [t] := by
  obtain ⟨-, hsize, ht⟩ := h
  refine ⟨?_, by simp; omega⟩
  rw [hs]
  exact .cons ⟨ht.congr hn, by simpa using hsize⟩ .nil

section top
variable {s : State} {t l r : CodeTree} {ts : List CodeTree} {e : StackEntry} {rest : List StackEntry}

/-- The entry on top popped. -/
theorem State.Stacked.pop (h : s.Stacked (t :: ts)) (hs : s.stack = e :: rest) :
    (∀ u : State, u.node = s.node → u.stack = rest → u.Stacked ts) ∧ s.Denotes t e.node ∧ e.len.toNat + t.internals ≤ 255 := by
  obtain ⟨htrees, hroom⟩ := h
  rw [hs] at htrees
  obtain ⟨⟨ht, hlen⟩, hrest⟩ := List.forall₂_cons.1 htrees
  simp only [List.length_cons, List.map_cons, List.sum_cons] at hroom
  refine ⟨fun u hn hu => ⟨?_, by omega⟩, ht, hlen⟩
  rw [hu]
  exact hrest.imp fun _ _ hx => ⟨hx.1.congr hn, hx.2⟩

/-- The children of an internal node on top can take its place. -/
theorem State.Stacked.expand (h : s.Stacked (.node l r :: ts)) (hs : s.stack = e :: rest) : ∃ a b, isLeaf e.node = false ∧
    s.child .left e.node = .ok a ∧ s.child .right e.node = .ok b ∧ e.len.toNat < 255 ∧
    ∀ el er : StackEntry, el.node = a → er.node = b → el.len.toNat ≤ e.len.toNat + 1 → er.len.toNat ≤ e.len.toNat + 1 →
      ∃ u v, State.push { s with stack := rest } er = .ok u ∧ u.push el = .ok v ∧ v.Stacked (l :: r :: ts) := by
  obtain ⟨hpop, ⟨j, hj, -, hl, hr⟩, hlen⟩ := h.pop hs
  obtain ⟨ha, hb⟩ := State.child_of_slot (s := s) hj
  have hroom := h.room
  simp only [CodeTree.internals, List.length_cons, List.map_cons, List.sum_cons] at hlen hroom
  refine ⟨_, _, isLeaf_of_slot hj, ha, hb, by omega, fun el er hel her hlenl hlenr => ?_⟩
  have hrest := (hpop { s with stack := rest } rfl rfl).trees
  have hcount : ts.length = rest.length := hrest.length_eq
  obtain ⟨u, hu, hun, hus⟩ : ∃ u, State.push { s with stack := rest } er = .ok u ∧ u.node = s.node ∧ u.stack = er :: rest :=
    ⟨_, State.push_ok.2 ⟨by show rest.length < 256; omega, rfl⟩, rfl, rfl⟩
  obtain ⟨v, hv, hvn, hvs⟩ : ∃ v, u.push el = .ok v ∧ v.node = u.node ∧ v.stack = el :: er :: rest :=
    ⟨_, State.push_ok.2 ⟨by rw [hus, List.length_cons]; omega, rfl⟩, rfl, by rw [hus]⟩
  have hn := hvn.trans hun
  refine ⟨u, v, hu, hv, ?_, by simp only [List.length_cons, List.map_cons, List.sum_cons]; omega⟩
  rw [hvs]
  exact .cons ⟨hel ▸ hl.congr hn, by omega⟩ (.cons ⟨her ▸ hr.congr hn, by omega⟩
    (hrest.imp fun _ _ hx => ⟨State.Denotes.congr (s := { s with stack := rest }) hn hx.1, hx.2⟩))

end top

/-! ### CODES_DERIVE (R119, R121) -/

/-- The number of positions of a tree (R84). -/
def CodeTree.positions (t : CodeTree) : Nat := 2 * t.internals + 1

/-- A visit replaces the tree on top by its children, and so takes away one position. -/
theorem State.Stacked.deriveVisit {s : State} {t : CodeTree} {ts : List CodeTree} {e : StackEntry} {rest : List StackEntry}
    (h : s.Stacked (t :: ts)) (hs : s.stack = e :: rest) : ∃ u us, State.deriveVisit { s with stack := rest } e = .ok u ∧ u.Stacked us ∧
      (us.map CodeTree.positions).sum + 1 = ((t :: ts).map CodeTree.positions).sum := by
  cases t with
  | leaf v =>
    obtain ⟨hrest, hv, -⟩ := h.pop hs
    have hleaf : isLeaf e.node = true := by rw [show e.node = leafSlot v from hv, isLeaf_leafSlot]
    refine ⟨_, ts, by rw [State.deriveVisit, if_pos hleaf], ?_, by simp [CodeTree.positions, CodeTree.internals]; omega⟩
    split
    · exact hrest _ rfl rfl
    · exact hrest _ rfl rfl
  | node l r =>
    obtain ⟨a, b, hleaf, ha, hb, hlen, hpush⟩ := h.expand hs
    have hlen1 : (e.len + 1).toNat = e.len.toNat + 1 := toNat_add_one (by omega)
    obtain ⟨u, v, hu, hv, hstacked⟩ := hpush { node := a, len := e.len + 1, code := 2 * e.code }
      { node := b, len := e.len + 1, code := 2 * e.code + 1 } rfl rfl hlen1.le hlen1.le
    have hmax : e.len ≠ Config.maxCodeLen := fun hm => by
      rw [hm, show Config.maxCodeLen.toNat = 255 from rfl] at hlen
      omega
    have hchild : ∀ side n, State.child { s with stack := rest } side n = s.child side n := fun _ _ => rfl
    refine ⟨v, l :: r :: ts, ?_, hstacked, by simp [CodeTree.positions, CodeTree.internals]; omega⟩
    simp only [State.deriveVisit, hleaf, hchild, ha, hb, if_neg hmax, hu, hv, Bool.false_eq_true, if_false]

/-- As many visits as there are positions on the stack empty it. -/
theorem deriveLoop_of_stacked (visits : Nat) {s : State} {ts : List CodeTree} (h : s.Stacked ts)
    (hv : (ts.map CodeTree.positions).sum ≤ visits) : ∃ t, deriveLoop visits s = .ok t := by
  induction visits generalizing s ts with
  | zero =>
    cases ts with
    | nil =>
      have hs : s.stack = [] := List.forall₂_nil_left_iff.1 h.trees
      exact ⟨s, by simp [deriveLoop, hs]⟩
    | cons t ts => simp [CodeTree.positions] at hv
  | succ n ih =>
    cases hs : s.stack with
    | nil => exact ⟨s, by simp [deriveLoop, hs]⟩
    | cons e rest =>
      obtain ⟨t, ts, -, -, rfl⟩ := List.forall₂_cons_right_iff.1 (hs ▸ h.trees)
      obtain ⟨u, us, hu, hus, hsum⟩ := h.deriveVisit hs
      obtain ⟨x, hx⟩ := ih hus (by omega)
      exact ⟨x, by simp [deriveLoop, hs, hu, hx]⟩

theorem State.TreesOk.deriveCodes {s : State} (h : s.TreesOk) : ∃ t, s.deriveCodes = .ok t := by
  unfold State.deriveCodes
  dsimp only
  split
  next => exact ⟨_, rfl⟩
  next hroot =>
    obtain ⟨t, ht⟩ := h.root.resolve_left hroot
    have hsize := ht.2.1
    exact deriveLoop_of_stacked _ (ht.stacked rfl rfl) (by simp [CodeTree.positions, treePositions]; omega)

/-! ### TREE_SERIALIZE (R123) -/

/-- The bytes still to come: the value of a pending leaf, one tag for each internal node and two bytes for each leaf position (R82, R84). -/
def bytesToCome (pending : Option Idx) (ts : List CodeTree) : Nat := pending.toList.length + (ts.map fun t => 3 * t.internals + 2).sum

/-- A byte emitted is one byte less to come. -/
theorem State.Stacked.serialNext {s : State} {p : Option Idx} {ts : List CodeTree} {b : Byte} (h : s.Stacked ts)
    (hb : s.serialByte p = some b) : ∃ q u us, s.serialNext p = .ok (q, u) ∧ u.Stacked us ∧ bytesToCome q us + 1 = bytesToCome p ts := by
  cases p with
  | some n => exact ⟨none, s, ts, rfl, h, by simp [bytesToCome]; omega⟩
  | none =>
    cases hs : s.stack with
    | nil => simp [State.serialByte, hs] at hb
    | cons e rest =>
      obtain ⟨t, ts, -, -, rfl⟩ := List.forall₂_cons_right_iff.1 (hs ▸ h.trees)
      cases t with
      | leaf v =>
        obtain ⟨hrest, hv, -⟩ := h.pop hs
        have hleaf : isLeaf e.node = true := by rw [show e.node = leafSlot v from hv, isLeaf_leafSlot]
        exact ⟨some e.node, { s with stack := rest }, ts, by simp [State.serialNext, hs, hleaf], hrest _ rfl rfl,
          by simp [bytesToCome, CodeTree.internals]; omega⟩
      | node l r =>
        obtain ⟨a, c, hleaf, ha, hc, -, hpush⟩ := h.expand hs
        obtain ⟨u, v, hu, hv, hstacked⟩ := hpush { node := a } { node := c } rfl rfl (Nat.zero_le _) (Nat.zero_le _)
        exact ⟨none, v, l :: r :: ts,
          by simp only [State.serialNext, hs, hleaf, ha, hc, hu, hv, Bool.false_eq_true, if_false], hstacked,
          by simp [bytesToCome, CodeTree.internals]; omega⟩

theorem emit_accepted_node {s t : State} {b : Byte} (h : s.emit b = .accepted t) : t.node = s.node ∧ t.stack = s.stack := by
  obtain ⟨hl, -⟩ := lessPorts_emit (.inl h)
  exact ⟨(congrArg State.node hl :), (congrArg State.stack hl :)⟩

/-- The emission of each byte leaves the turns for the rest. -/
theorem serialLoop_defined (turns : Nat) {p : Option Idx} {s : State} {ts : List CodeTree} (h : s.Stacked ts)
    (hturns : bytesToCome p ts ≤ turns) : (serialLoop turns p s).Defined := by
  induction turns generalizing p s ts with
  | zero =>
    unfold serialLoop
    split
    · trivial
    next b hb =>
      obtain ⟨_, _, _, -, -, hless⟩ := h.serialNext hb
      omega
  | succ n ih =>
    unfold serialLoop
    split
    · trivial
    next b hb =>
      dsimp only
      split
      · trivial
      · trivial
      next t ht =>
        obtain ⟨hn, hs⟩ := emit_accepted_node ht
        have hbt : t.serialByte p = some b := by rwa [State.serialByte.eq_def, hs, ← State.serialByte.eq_def]
        obtain ⟨q, u, us, hnext, hus, hless⟩ := (h.congr hn hs).serialNext hbt
        simp only [hnext]
        exact ih hus (by omega)

theorem treeSerializeBody_defined {s : State} (h : s.TreesOk) : (treeSerializeBody s).Defined := by
  unfold treeSerializeBody
  split
  next => trivial
  next hroot =>
    obtain ⟨t, ht⟩ := h.root.resolve_left hroot
    have hsize := ht.2.1
    exact serialLoop_defined _ (ht.stacked rfl rfl) (by simp [bytesToCome, headerBytes]; omega)

/-! ### UNPACK (R135) -/

/-- ROOT holds a tree, and CUR an internal node of a tree. -/
structure State.Walking (s : State) : Prop where
  root : ∃ t, s.HasTree t
  cur : ∃ t, t.isNode = true ∧ s.Denotes t s.cur

/-- The walk can start over at ROOT. -/
theorem walking_at_root {s u : State} (h : ∃ t, s.HasTree t) (hn : u.node = s.node) (hr : u.root = s.root) (hc : u.cur = s.root) :
    u.Walking := by
  obtain ⟨t, ht⟩ := h
  exact ⟨⟨t, ht.congr hn hr⟩, t, ht.1, hc ▸ ht.2.2.congr hn⟩

theorem State.Walking.congr {s u : State} (h : s.Walking) (hn : u.node = s.node) (hr : u.root = s.root) (hc : u.cur = s.cur) : u.Walking := by
  obtain ⟨⟨t, ht⟩, t', hnode, ht'⟩ := h
  exact ⟨⟨t, ht.congr hn hr⟩, t', hnode, hc ▸ ht'.congr hn⟩

/-- An internal node has a tree on each side. -/
theorem State.Walking.child {s : State} (h : s.Walking) (side : Side) : ∃ c t, s.child side s.cur = .ok c ∧ s.Denotes t c := by
  obtain ⟨-, t, hnode, ht⟩ := h
  cases t with
  | leaf v => cases hnode
  | node l r =>
    obtain ⟨j, hj, -, hl, hr⟩ := ht
    obtain ⟨ha, hb⟩ := State.child_of_slot (s := s) hj
    cases side with
    | left => exact ⟨_, l, ha, hl⟩
    | right => exact ⟨_, r, hb, hr⟩

theorem emitLeaf_accepted {s t : State} (h : s.emitLeaf = .accepted t) : t.node = s.node ∧ t.root = s.root ∧ t.cur = s.root := by
  have hk := (walkKeeps_emitLeaf (.inl h)).1
  refine ⟨(congrArg State.node hk :), (congrArg State.root hk :), ?_⟩
  unfold State.emitLeaf at h
  split at h
  · obtain rfl := Emitted.accepted.inj h
    rfl
  · cases h
  · cases h

theorem walkBits_defined (b : Byte) (n : Nat) {s : State} (h : s.Walking) : (walkBits b n s).Defined State.Walking := by
  induction n generalizing s with
  | zero => exact h
  | succ n ih =>
    obtain ⟨c, t, hc, ht⟩ := h.child (edge (b.getLsbD n))
    simp only [walkBits, hc]
    split
    next =>
      split
      next u hu =>
        obtain ⟨hn, hr, hcur⟩ := emitLeaf_accepted hu
        exact ih (walking_at_root h.root hn hr hcur)
      next => trivial
      next => trivial
    next hleaf =>
      obtain ⟨root, hroot⟩ := h.root
      refine ih ⟨⟨root, hroot.congr rfl rfl⟩, t, ?_, State.Denotes.congr (s := s) (u := { s with cur := c }) rfl ht⟩
      cases t with
      | leaf v =>
        rw [show c = leafSlot v from ht, isLeaf_leafSlot] at hleaf
        exact absurd rfl hleaf
      | node l r => rfl

theorem unpackBody_defined {s : State} (h : s.TreesOk) : (unpackBody s).Defined := by
  unfold unpackBody
  split
  next => trivial
  next hroot =>
    refine defined_overTokens (J := State.Walking) (fun u tok ts hu => hu.congr (by simp) (by simp) ?cur) (fun _ tok u hu => ?body) _ _
      (walking_at_root (h.root.resolve_left hroot) rfl rfl rfl)
    case cur => cases tok <;> rfl
    case body =>
      cases tok with
      | fail => trivial
      | endOfPass => trivial
      | byte b => exact walkBits_defined b 8 hu

theorem unpackUnlessEmptyBody_defined {s : State} (h : s.TreesOk) : (unpackUnlessEmptyBody s).Defined := by
  unfold unpackUnlessEmptyBody
  split
  · trivial
  · exact unpackBody_defined h

/-! ### The commands -/

/-- TREE_DESERIALIZE has a meaning in every state: it ends as the count of R83 says. -/
theorem treeDeserializeBody_defined {s : State} (hp : s.pace = none) : (treeDeserializeBody s).Defined := by
  have h := treeDeserializeBody_follows hp
  generalize headerEnd true 1 0 s.inq = e at h
  generalize treeDeserializeBody s = r at h ⊢
  cases h <;> trivial

/-- Every stage but TREE_DESERIALIZE, which is always the first one of its command. -/
theorem stageBody_defined {c : Stage} (hc : c ≠ .treeDeserialize) {s : State} (h : s.TreesOk) : (stageBody c s).Defined := by
  cases c with
  | freqCount => exact freqCountBody_defined s
  | treeStep => exact defined_ofExcept h.treeStep
  | treeBuild => exact defined_ofExcept h.treeBuild
  | codesDerive => exact defined_ofExcept h.deriveCodes
  | treeSerialize => exact treeSerializeBody_defined h
  | treeDeserialize => exact absurd rfl hc
  | pack => exact packBody_defined s
  | unpack => exact unpackBody_defined h
  | unpackUnlessEmpty => exact unpackUnlessEmptyBody_defined h
  | nop | softReset | clearErr | freqClear | heapBuild | illegal => trivial

/-- The later stages have a meaning because the earlier ones keep the tree invariant (`stageBody_treesOk`). -/
theorem chain_defined (todo : List Stage) (hd : Stage.treeDeserialize ∉ todo) {r : Run} {W : Pos → Prop} (hr : r.Ends State.TreesOk W)
    (h : r.Defined) : (r.chain todo).Defined := by
  induction todo generalizing r W with
  | nil => exact h
  | cons c todo ih =>
    obtain ⟨hc, hd⟩ := List.ne_and_not_mem_of_not_mem_cons hd
    cases r with
    | ret s =>
      rw [Run.chain_cons, Run.andThen_ret]
      split
      · rw [Run.chain_wait]
        trivial
      · have hs : s.tick.TreesOk := State.TreesOk.congr hr rfl
        exact ih hd (stageBody_treesOk c hs) (stageBody_defined (Ne.symm hc) hs)
    | raised e info s => rw [Run.chain_raised]; trivial
    | reset s => rw [Run.chain_reset]; trivial
    | wait pos later s => rw [Run.chain_wait]; trivial
    | stuck f => exact h.elim

/-- A body started by a command in a ready block, with its later stages. -/
theorem plan_defined {c : Stage} {todo : List Stage} (hd : Stage.treeDeserialize ∉ todo) {s : State} (hp : s.pace = none) (h : s.TreesOk) :
    ((stageBody c s).chain todo).Defined := by
  refine chain_defined todo hd (stageBody_treesOk c h) ?_
  by_cases hc : c = .treeDeserialize
  · subst hc
    exact treeDeserializeBody_defined hp
  · exact stageBody_defined hc h

theorem launch_of_plan {op : Byte} {c : Stage} {todo : List Stage} (hd : Stage.treeDeserialize ∉ todo) {s : State} (hp : s.pace = none)
    (h : s.TreesOk) : ∃ t, launch op c todo (fun u => (stageBody c u).chain todo) s = .next t := by
  rw [launch_runs (by simp [hp]), accept_tick_none _ _ _ hp]
  exact settle_of_defined op (plan_defined hd hp (h.congr rfl))

theorem treeDeserialize_first (i : Instr) : Stage.treeDeserialize ∉ (Instr.plan i).tail := by cases i <;> decide

/-- Settles O59: each stage has a meaning when the tree invariant holds (`stageBody_defined`), and keeps it. -/
theorem commandsNeverStop : Obligations.CommandsNeverStop := by
  rintro i s ⟨hq, he, hp⟩ h
  have hbusy : s.busy = false := State.busy_idle hq
  by_cases hr : i = .softReset
  · rw [hr, exec_softReset, if_neg (by simp [hbusy])]
    exact launch_of_plan List.not_mem_nil hp h
  by_cases hc : i = .clearErr
  · rw [hc, exec_clearErr, if_neg (by simp [hbusy])]
    exact launch_of_plan List.not_mem_nil hp h
  obtain ⟨c, todo, hplan, hexec⟩ := exec_command hr hc s
  have hd := treeDeserialize_first i
  rw [hplan] at hd
  rw [hexec, command_accepted hbusy (State.errSet_eq_false_iff.2 he)]
  exact launch_of_plan hd hp h

end Sys2Proof.Machine
end

section
/-! PROOFS. The code table that CODES_DERIVE makes (spec/44_code_table.md R119, R120, R122): the walk meets the leaves in pre-order, and the first
position of a symbol decides its entry. -/

namespace Sys2Proof.Machine

open Sys2Proof

/-! ### Bit strings and the numbers they spell (R34) -/

@[simp] theorem bitsValue_concat (bits : List Bool) (b : Bool) : bitsValue (bits ++ [b]) = 2 * bitsValue bits + b.toNat := by
  simp [bitsValue]

theorem bitsValue_lt (bits : List Bool) : bitsValue bits < 2 ^ bits.length := by
  induction bits using List.reverseRecOn with
  | nil => exact Nat.one_pos
  | append_singleton bits b ih =>
    have := b.toNat_lt
    rw [bitsValue_concat, List.length_append, List.length_singleton, Nat.pow_succ]
    omega

/-- The bits of the number, from the top one of the string's length down, are the string. -/
theorem testBits_bitsValue (bits : List Bool) : (List.range bits.length).reverse.map (bitsValue bits).testBit = bits := by
  induction bits using List.reverseRecOn with
  | nil => rfl
  | append_singleton bits b ih =>
    have htop : ∀ i, (bitsValue (bits ++ [b])).testBit i.succ = (bitsValue bits).testBit i := fun i => by
      have := b.toNat_lt
      rw [bitsValue_concat, Nat.testBit_succ, show (2 * bitsValue bits + b.toNat) / 2 = bitsValue bits by omega]
    have hlow : (bitsValue (bits ++ [b])).testBit 0 = b := by cases b <;> simp
    rw [List.length_append, List.length_singleton, List.range_succ_eq_map, List.reverse_cons, List.map_append, List.map_singleton, hlow,
      ← List.map_reverse, List.map_map, Function.comp_def, List.map_congr_left fun i _ => htop i, ih]

/-- The code of a child spells its parent's bits and one bit more (R119). -/
theorem childCode_toNat {c : Code} {bits : List Bool} (hc : c.toNat = bitsValue bits) (hl : bits.length < 255) :
    (2 * c).toNat = bitsValue (bits ++ [false]) ∧ (2 * c + 1).toNat = bitsValue (bits ++ [true]) := by
  have hlt := bitsValue_lt bits
  have hpow : 2 ^ bits.length ≤ 2 ^ 254 := Nat.pow_le_pow_right Nat.two_pos (by omega)
  have h2 : (2 * c).toNat = 2 * bitsValue bits := by
    rw [BitVec.toNat_mul, hc]
    exact Nat.mod_eq_of_lt (by simp; omega)
  refine ⟨by simpa using h2, ?_⟩
  rw [toNat_add_one (by omega), h2, bitsValue_concat, Bool.toNat_true]

/-! ### An entry of the code table -/

theorem State.codeLenOf_setCode (s : State) (u v len : Byte) (c : Code) :
    (s.setCode u len c).codeLenOf v = if u = v then len else s.codeLenOf v := by
  simp [State.codeLenOf, Table.get_set, symIndex_inj]

theorem State.codeBitsOf_setCode (s : State) (u v len : Byte) (c : Code) :
    (s.setCode u len c).codeBitsOf v = if u = v then c else s.codeBitsOf v := by
  simp [State.codeBitsOf, Table.get_set, symIndex_inj]

/-- The table's entry of v is this code, or 0 where there is none (R34). -/
def State.Records (s : State) (v : Byte) : Option (List Bool) → Prop
  | some bits => bits ≠ [] ∧ (s.codeLenOf v).toNat = bits.length ∧ (s.codeBitsOf v).toNat = bitsValue bits
  | none => s.codeLenOf v = 0 ∧ s.codeBitsOf v = 0

theorem State.Records.congr {s t : State} {v : Byte} {o : Option (List Bool)} (h : s.Records v o) (hp : t.codePart = s.codePart) :
    t.Records v o := by
  obtain ⟨hl, hb⟩ := Prod.mk.inj hp
  unfold State.Records State.codeLenOf State.codeBitsOf at *
  rwa [hl, hb]

theorem records_none_of_cleared {s : State} (hl : s.codeLen = .fill 256 0) (hb : s.codeBits = .fill 256 0) (v : Byte) :
    s.Records v none := by
  simp [State.Records, State.codeLenOf, State.codeBitsOf, hl, hb]

theorem State.Records.codeLenOf_eq_zero_iff {s : State} {v : Byte} {o : Option (List Bool)} (h : s.Records v o) :
    s.codeLenOf v = 0 ↔ o = none := by
  cases o with
  | none => simp [h.1]
  | some bits =>
    obtain ⟨hne, hlen, -⟩ := h
    have := List.length_pos_iff.2 hne
    rw [BitVec.toNat_eq, hlen]
    simp
    omega

theorem State.Records.tableCode {s : State} {v : Byte} {bits : List Bool} (h : s.Records v (some bits)) : s.tableCode v = bits := by
  obtain ⟨-, hlen, hcode⟩ := h
  have hbit : (fun i => (s.codeBitsOf v).getLsbD i) = (bitsValue bits).testBit := funext fun i => by rw [← BitVec.testBit_toNat, hcode]
  rw [State.tableCode, hlen, hbit, testBits_bitsValue]

/-- The first visit of a symbol wins (R120). -/
theorem State.Records.visitLeaf {s : State} {v : Byte} {o : Option (List Bool)} (h : s.Records v o) {u len : Byte} {c : Code}
    {path : List Bool} (hne : path ≠ []) (hlen : len.toNat = path.length) (hc : c.toNat = bitsValue path) :
    (if s.codeLenOf u = 0 then s.setCode u len c else s).Records v (o.or ([(u, path)].lookup v)) := by
  by_cases huv : u = v
  · subst huv
    rw [List.lookup_cons_self]
    cases o with
    | none =>
      rw [if_pos h.1]
      exact ⟨hne, by simpa [State.codeLenOf_setCode] using hlen, by simpa [State.codeBitsOf_setCode] using hc⟩
    | some bits =>
      rw [if_neg fun h0 => by simpa using h.codeLenOf_eq_zero_iff.1 h0]
      exact h
  · have hskip : [(u, path)].lookup v = none := by simp [List.lookup, beq_false_of_ne (Ne.symm huv)]
    rw [hskip, Option.or_none]
    split
    · cases o <;> simpa [State.Records, State.codeLenOf_setCode, State.codeBitsOf_setCode, huv] using h
    · exact h

/-! ### The places of the walk -/

/-- A place of the tree that the walk still has to visit: the tree below it, and the path from the root to it. -/
structure Place where
  tree : CodeTree
  path : List Bool

/-- The leaf positions at and below a place, in pre-order, with their paths from the root. -/
def Place.leaves (p : Place) : List (Byte × List Bool) := p.tree.paths.map fun q => (q.1, p.path ++ q.2)

@[simp] theorem Place.leaves_leaf (v : Byte) (path : List Bool) : Place.leaves ⟨.leaf v, path⟩ = [(v, path)] := by
  simp [Place.leaves, CodeTree.paths]

@[simp] theorem Place.leaves_node (l r : CodeTree) (path : List Bool) :
    Place.leaves ⟨.node l r, path⟩ = Place.leaves ⟨l, path ++ [false]⟩ ++ Place.leaves ⟨r, path ++ [true]⟩ := by
  simp [Place.leaves, CodeTree.paths, Function.comp_def]

theorem Place.leaves_root (t : CodeTree) : Place.leaves ⟨t, []⟩ = t.paths := by simp [Place.leaves]

/-- A stack entry stands for a place. No leaf stands at the root (R50), so no leaf has the empty path. -/
structure State.StandsFor (s : State) (p : Place) (e : StackEntry) : Prop where
  tree : s.Denotes p.tree e.node
  len : e.len.toNat = p.path.length
  code : e.code.toNat = bitsValue p.path
  proper : p.tree.isNode = true ∨ p.path ≠ []

theorem State.StandsFor.congr {s u : State} {p : Place} {e : StackEntry} (h : s.StandsFor p e) (hn : u.node = s.node) : u.StandsFor p e :=
  ⟨h.tree.congr hn, h.len, h.code, h.proper⟩

/-! ### One visit (R119) -/

theorem State.deriveVisit_leaf {s : State} {e : StackEntry} {v : Byte} (h : e.node = leafSlot v) :
    s.deriveVisit e = .ok (if s.codeLenOf v = 0 then s.setCode v e.len e.code else s) := by
  simp [State.deriveVisit, h]

theorem State.deriveVisit_node {s t : State} {e : StackEntry} {j : Fin 255} (hj : slot? e.node = some j) (h : s.deriveVisit e = .ok t) :
    e.len.toNat < 255 ∧ t = { s with stack :=
      { node := (s.node.get j).left, len := e.len + 1, code := 2 * e.code } ::
      { node := (s.node.get j).right, len := e.len + 1, code := 2 * e.code + 1 } :: s.stack } := by
  obtain ⟨hl, hr⟩ := State.child_of_slot (s := s) hj
  simp only [State.deriveVisit, isLeaf_of_slot hj, hl, hr, Bool.false_eq_true, if_false] at h
  split at h
  · cases h
  next hmax =>
    split at h
    next u hu =>
      obtain ⟨-, rfl⟩ := State.push_ok.1 hu
      obtain ⟨-, rfl⟩ := State.push_ok.1 h
      have hne : e.len.toNat ≠ 255 := fun h255 => hmax (BitVec.eq_of_toNat_eq h255)
      exact ⟨by have := e.len.isLt; omega, rfl⟩
    · cases h

/-- The table and the places on the stack, top first, together hold the code of v: what is recorded, else the first position to come. -/
def State.WillRecord (s : State) (v : Byte) (code : Option (List Bool)) : Prop :=
  ∃ ps o, List.Forall₂ s.StandsFor ps s.stack ∧ s.Records v o ∧ o.or ((ps.flatMap Place.leaves).lookup v) = code

/-- A visit of a leaf moves its position from the places to the table; a visit of an internal node puts its children in its place. -/
theorem State.WillRecord.visit {s u : State} {v : Byte} {code : Option (List Bool)} {e : StackEntry} {rest : List StackEntry}
    (h : s.WillRecord v code) (hs : s.stack = e :: rest) (hu : State.deriveVisit { s with stack := rest } e = .ok u) :
    u.WillRecord v code := by
  obtain ⟨ps, o, hstack, hrec, rfl⟩ := h
  obtain ⟨⟨tree, path⟩, ps, ⟨htree, hlen, hcode, hproper⟩, hrest, rfl⟩ := List.forall₂_cons_right_iff.1 (hs ▸ hstack)
  have hrec' : State.Records { s with stack := rest } v o := hrec.congr rfl
  cases tree with
  | leaf w =>
    have hpath : path ≠ [] := hproper.resolve_left Bool.false_ne_true
    rw [State.deriveVisit_leaf htree] at hu
    obtain rfl := Except.ok.inj hu
    refine ⟨ps, o.or ([(w, path)].lookup v), ?_, hrec'.visitLeaf hpath hlen hcode, ?_⟩
    · split <;> exact hrest.imp fun _ _ hp => hp.congr rfl
    · rw [List.flatMap_cons, Place.leaves_leaf, List.lookup_append, Option.or_assoc]
  | node l r =>
    obtain ⟨j, hj, -, hl, hr⟩ := htree
    obtain ⟨hlt, rfl⟩ := State.deriveVisit_node hj hu
    have hlen1 : (e.len + 1).toNat = path.length + 1 := by rw [toNat_add_one (by omega), hlen]
    obtain ⟨hfalse, htrue⟩ := childCode_toNat hcode (hlen ▸ hlt)
    have hleft : s.StandsFor ⟨l, path ++ [false]⟩ { node := (s.node.get j).left, len := e.len + 1, code := 2 * e.code } :=
      ⟨hl, by simpa using hlen1, hfalse, .inr (by simp)⟩
    have hright : s.StandsFor ⟨r, path ++ [true]⟩ { node := (s.node.get j).right, len := e.len + 1, code := 2 * e.code + 1 } :=
      ⟨hr, by simpa using hlen1, htrue, .inr (by simp)⟩
    refine ⟨⟨l, path ++ [false]⟩ :: ⟨r, path ++ [true]⟩ :: ps, o, ?_, hrec.congr rfl, ?_⟩
    · exact .cons (hleft.congr rfl) (.cons (hright.congr rfl) (hrest.imp fun _ _ hp => hp.congr rfl))
    · simp only [List.flatMap_cons, Place.leaves_node, List.append_assoc]

/-! ### The walk -/

/-- What every visit keeps holds when the walk ends, with an empty stack. -/
theorem deriveLoop_induct {P : State → Prop}
    (hvisit : ∀ s e rest u, P s → s.stack = e :: rest → State.deriveVisit { s with stack := rest } e = .ok u → P u) (visits : Nat)
    {s t : State} (hs : P s) (ht : deriveLoop visits s = .ok t) : P t ∧ t.stack = [] := by
  induction visits generalizing s with
  | zero =>
    unfold deriveLoop at ht
    split at ht
    next hnil => cases ht; exact ⟨hs, hnil⟩
    · cases ht
  | succ n ih =>
    unfold deriveLoop at ht
    split at ht
    next hnil => cases ht; exact ⟨hs, hnil⟩
    next e rest hstack =>
      dsimp only at ht
      split at ht
      next u hu => exact ih (hvisit s e rest u hs hstack hu) ht
      · cases ht

/-- With no place left, the table holds the codes. -/
theorem State.WillRecord.records {s : State} {v : Byte} {code : Option (List Bool)} (h : s.WillRecord v code) (hs : s.stack = []) :
    s.Records v code := by
  obtain ⟨ps, o, hstack, hrec, rfl⟩ := h
  rw [hs, List.forall₂_nil_right_iff] at hstack
  simpa [hstack] using hrec

theorem State.HasTree.root_ne_nil {s : State} {tree : CodeTree} (h : s.HasTree tree) : s.root ≠ Config.nil := by
  obtain ⟨hnode, -, htree⟩ := h
  cases tree with
  | leaf v => cases hnode
  | node l r =>
    obtain ⟨j, hj, -⟩ := htree
    intro hnil
    rw [slot?_eq_none_iff.2 (.inr hnil)] at hj
    cases hj

/-- Where the walk starts: an empty table, and the root on the stack. -/
def State.deriveStart (s : State) : State :=
  { s with codeLen := .fill 256 0, codeBits := .fill 256 0, stack := [{ node := s.root }] }

theorem State.deriveCodes_of_ne_nil {s : State} (h : s.root ≠ Config.nil) : s.deriveCodes = deriveLoop treePositions s.deriveStart := if_neg h

/-- At the start every position of the tree is still to come. -/
theorem State.HasTree.willRecord_deriveStart {s : State} {tree : CodeTree} (h : s.HasTree tree) (v : Byte) :
    s.deriveStart.WillRecord v (tree.codeOf v) := by
  obtain ⟨hnode, -, htree⟩ := h
  have hroot : s.StandsFor ⟨tree, []⟩ { node := s.root } := ⟨htree, rfl, rfl, .inl hnode⟩
  exact ⟨[⟨tree, []⟩], none, .cons (hroot.congr rfl) .nil, records_none_of_cleared rfl rfl v, by simp [Place.leaves_root, CodeTree.codeOf]⟩

theorem State.HasTree.deriveCodes {s : State} {tree : CodeTree} (h : s.HasTree tree) :
    ∃ t, s.deriveCodes = .ok t ∧ ∀ v, t.Records v (tree.codeOf v) := by
  have hvisits : ([tree].map CodeTree.positions).sum ≤ treePositions := by
    obtain ⟨-, hsize, -⟩ := h
    simp [CodeTree.positions, treePositions]
    omega
  obtain ⟨t, ht⟩ : ∃ t, deriveLoop treePositions s.deriveStart = .ok t := deriveLoop_of_stacked _ (h.stacked rfl rfl) hvisits
  refine ⟨t, (State.deriveCodes_of_ne_nil h.root_ne_nil).trans ht, fun v => ?_⟩
  obtain ⟨hdone, hempty⟩ := deriveLoop_induct (fun _ _ _ _ => State.WillRecord.visit) _ (h.willRecord_deriveStart v) ht
  exact hdone.records hempty

theorem State.deriveCodes_nil {s : State} (h : s.root = Config.nil) :
    s.deriveCodes = .ok { s with codeLen := .fill 256 0, codeBits := .fill 256 0, stack := [] } := if_pos h

/-! ### The command (R119) -/

/-- In a ready block the command completes with the table of its body, which writes no more than the table and the stack. -/
theorem exec_codesDerive_ready {s t : State} (h : s.Ready) (ht : (s.accept 0x40 (.enter .codesDerive) []).deriveCodes = .ok t) :
    exec .codesDerive s = .next t.complete ∧
      t.complete = { s.completed with codeLen := t.codeLen, codeBits := t.codeBits, stack := t.stack } := by
  obtain ⟨hq, he, hp⟩ := h
  have hkept := deriveCodes_lessCodes ht
  have hpace : t.pace = none := (congrArg State.pace hkept).trans hp
  refine ⟨?_, (congrArg (fun u => { u.complete with codeLen := t.codeLen, codeBits := t.codeBits, stack := t.stack }) hkept :)⟩
  calc exec .codesDerive s = settle 0x40 (.ofExcept (s.accept 0x40 (.enter .codesDerive) []).deriveCodes) := command_ready hq he hp
    _ = settle 0x40 (.ret t) := by rw [ht, Run.ofExcept]
    _ = .next t.complete := settle_ret_free _ hpace

theorem exec_codesDerive_of_hasTree {s : State} {tree : CodeTree} (h : s.Ready) (htree : s.HasTree tree) :
    ∃ t, exec .codesDerive s = .next t ∧ (∀ v, t.Records v (tree.codeOf v)) ∧
      t = { s.completed with codeLen := t.codeLen, codeBits := t.codeBits, stack := t.stack } := by
  obtain ⟨t, ht, hrec⟩ := (htree.congr rfl rfl : (s.accept 0x40 (.enter .codesDerive) []).HasTree tree).deriveCodes
  obtain ⟨hexec, hframe⟩ := exec_codesDerive_ready h ht
  exact ⟨t.complete, hexec, fun v => (hrec v).congr rfl, hframe⟩

/-- Settles O24: the walk records for each symbol its first position in pre-order (`State.HasTree.deriveCodes`). -/
theorem codesDeriveRecordsPaths : Obligations.CodesDeriveRecordsPaths := by
  refine ⟨fun s tree hs htree => ?tree, fun s hs hroot => ?empty⟩
  case tree =>
    obtain ⟨t, hexec, hrec, hframe⟩ := exec_codesDerive_of_hasTree hs htree
    refine ⟨t, hexec, fun v => ?_, hframe⟩
    have hv := hrec v
    split
    next bits hcode =>
      rw [hcode] at hv
      obtain ⟨hne, hlen, hbits⟩ := hv
      have := (t.codeLenOf v).isLt
      exact ⟨List.length_pos_iff.2 hne, by omega, hlen, State.Records.tableCode ⟨hne, hlen, hbits⟩, hbits⟩
    next hcode =>
      rw [hcode] at hv
      exact hv
  case empty =>
    obtain ⟨hexec, hframe⟩ := exec_codesDerive_ready hs (State.deriveCodes_nil hroot)
    exact ⟨_, hexec, records_none_of_cleared rfl rfl, hframe⟩

/-! ### Prefix-freeness (R122) -/

/-- A path to a leaf of a strict binary tree leads no further, so no other leaf lies beyond it. -/
theorem CodeTree.eq_of_paths_prefix {t : CodeTree} {u v : Byte} {p q : List Bool} (hp : (u, p) ∈ t.paths) (hq : (v, q) ∈ t.paths)
    (hpq : p <+: q) : u = v := by
  induction t generalizing p q with
  | leaf w =>
    simp only [CodeTree.paths, List.mem_singleton, Prod.mk.injEq] at hp hq
    rw [hp.1, hq.1]
  | node l r ihl ihr =>
    simp only [CodeTree.paths, List.mem_append, List.mem_map, Prod.mk.injEq, Prod.exists] at hp hq
    obtain ⟨_, p, hp, rfl, rfl⟩ | ⟨_, p, hp, rfl, rfl⟩ := hp <;> obtain ⟨_, q, hq, rfl, rfl⟩ | ⟨_, q, hq, rfl, rfl⟩ := hq
    · exact ihl hp hq (List.cons_prefix_cons.1 hpq).2
    · exact absurd (List.cons_prefix_cons.1 hpq).1 Bool.false_ne_true
    · exact absurd (List.cons_prefix_cons.1 hpq).1.symm Bool.false_ne_true
    · exact ihr hp hq (List.cons_prefix_cons.1 hpq).2

theorem CodeTree.mem_paths_of_codeOf {t : CodeTree} {v : Byte} {bits : List Bool} (h : t.codeOf v = some bits) : (v, bits) ∈ t.paths := by
  obtain ⟨before, later, hsplit, -⟩ := List.lookup_eq_some_iff.1 h
  simp [hsplit]

/-- A symbol with a code in the table has that code as a path of the tree. -/
theorem State.Records.tableCode_mem_paths {t : State} {tree : CodeTree} {v : Byte} (h : t.Records v (tree.codeOf v))
    (hv : t.codeLenOf v ≠ 0) : (v, t.tableCode v) ∈ tree.paths := by
  obtain ⟨bits, hcode⟩ := Option.ne_none_iff_exists'.1 (mt h.codeLenOf_eq_zero_iff.2 hv)
  rw [hcode] at h
  rw [h.tableCode]
  exact CodeTree.mem_paths_of_codeOf hcode

/-- Settles O25: the codes are paths of the tree, and no path to a leaf goes on to another leaf (`CodeTree.eq_of_paths_prefix`). -/
theorem derivedCodesArePrefixFree : Obligations.DerivedCodesArePrefixFree := by
  intro s t tree u v hs htree ht huv hu hv hprefix
  obtain ⟨t', hexec, hrec, -⟩ := exec_codesDerive_of_hasTree hs htree
  obtain rfl := Host.Outcome.next.inj (ht.symm.trans hexec)
  exact huv (CodeTree.eq_of_paths_prefix ((hrec u).tableCode_mem_paths hu) ((hrec v).tableCode_mem_paths hv) hprefix)

end Sys2Proof.Machine
end

section
/-! PROOFS. What the sink's answers make of a row of offers (spec/00_scope.md R16; 20_memory.md R61), and TREE_SERIALIZE (45_tree_codec.md R123;
30_encoding.md R82): the traversal stack holds the subtrees whose headers are still to come. -/

namespace Sys2Proof.Machine

open Sys2Proof

/-! ### Offers and their answers -/

/-- The state once the sink has accepted these bytes. -/
def State.offered (s : State) (bytes : List Byte) : State :=
  { s with sink := s.sink.drop bytes.length, out := s.out ++ bytes, outCount := s.outCount + BitVec.ofNat 32 bytes.length }

/-- The state once the sink has failed the byte offered next. -/
def State.refused (s : State) : State := { s with sink := s.sink.drop 1 }

@[simp] theorem State.offered_nil (s : State) : s.offered [] = s := by simp [State.offered]

theorem State.offered_append (s : State) (xs ys : List Byte) : (s.offered xs).offered ys = s.offered (xs ++ ys) := by
  simp [State.offered, BitVec.add_assoc, BitVec.ofNat_add]

@[simp] theorem State.answerAt_offered (s : State) (bytes : List Byte) (k : Nat) :
    (s.offered bytes).answerAt k = s.answerAt (bytes.length + k) := by
  simp [State.answerAt, State.offered]

theorem State.Accepts.mono {s : State} {m n : Nat} (h : s.Accepts n) (hmn : m ≤ n) : s.Accepts m := fun k hk => h k (hk.trans_le hmn)

theorem State.Accepts.offered {s : State} {n : Nat} {bytes : List Byte} (h : s.Accepts (bytes.length + n)) : (s.offered bytes).Accepts n :=
  fun k hk => by rw [s.answerAt_offered, h _ (by omega)]

theorem State.FailsAt.offered {s : State} {k : Nat} {bytes : List Byte} (h : s.FailsAt (bytes.length + k)) : (s.offered bytes).FailsAt k :=
  ⟨h.1.offered, by rw [s.answerAt_offered, h.2]⟩

/-- The state once the sink has accepted these k bytes and failed the next. -/
theorem refused_offered (s : State) {bytes : List Byte} {k : Nat} (h : bytes.length = k) : (s.offered bytes).refused =
    { s with sink := s.sink.drop (k + 1), out := s.out ++ bytes, outCount := s.outCount + BitVec.ofNat 32 k } := by
  simp [State.offered, State.refused, h]

section free
variable {s : State} (hp : s.pace = none) (b : Byte)
include hp

theorem emit_of_answer_ok (h : s.answerAt 0 = some .ok) : s.emit b = .accepted (s.offered [b]) :=
  State.emit_of_ok hp (State.nextAnswer_some.2 ⟨h, rfl⟩)

theorem emit_of_answer_fail (h : s.answerAt 0 = some .fail) : s.emit b = .failed s.refused :=
  State.emit_of_fail hp (State.nextAnswer_some.2 ⟨h, rfl⟩)

end free

/-! ### TREE_SERIALIZE's bytes (R82, R123) -/

/-- The bytes still to come: the value of a pending leaf, and the headers of the trees on the stack. -/
def serialBytes (pending : Option Idx) (ts : List CodeTree) : List Byte := pending.toList.map leafValue ++ ts.flatMap CodeTree.header

/-- With no byte to come the stack is empty. -/
theorem State.Stacked.serialByte_none {s : State} {p : Option Idx} {ts : List CodeTree} (h : s.Stacked ts) (hb : serialBytes p ts = []) :
    s.serialByte p = none ∧ s.stack = [] := by
  cases p with
  | some n => simp [serialBytes] at hb
  | none =>
    cases ts with
    | nil =>
      have hs : s.stack = [] := List.forall₂_nil_left_iff.1 h.trees
      exact ⟨by simp [State.serialByte, hs], hs⟩
    | cons t ts => cases t <;> simp [serialBytes, CodeTree.header] at hb

/-- The byte offered is the first one to come, and accepting it leaves the others to come. -/
theorem State.Stacked.serialByte_cons {s : State} {p : Option Idx} {ts : List CodeTree} {b : Byte} {bytes : List Byte} (h : s.Stacked ts)
    (hb : serialBytes p ts = b :: bytes) : s.serialByte p = some b ∧ ∃ q stack us, s.serialNext p = .ok (q, { s with stack := stack }) ∧
      State.Stacked { s with stack := stack } us ∧ serialBytes q us = bytes := by
  cases p with
  | some n =>
    obtain ⟨hv, hrest⟩ : leafValue n = b ∧ serialBytes none ts = bytes := by simpa [serialBytes] using hb
    exact ⟨by rw [State.serialByte, hv], none, s.stack, ts, rfl, h, hrest⟩
  | none =>
    cases ts with
    | nil => simp [serialBytes] at hb
    | cons t ts =>
      obtain ⟨e, rest, -, -, hs⟩ := List.forall₂_cons_left_iff.1 h.trees
      cases t with
      | leaf v =>
        obtain ⟨hpop, hv, -⟩ := h.pop hs
        have hv : e.node = leafSlot v := hv
        obtain ⟨rfl, hrest⟩ : 0x01 = b ∧ v :: ts.flatMap CodeTree.header = bytes := by simpa [serialBytes, CodeTree.header] using hb
        exact ⟨by simp [State.serialByte, hs, hv, Config.tagLeaf], some e.node, rest, ts, by simp [State.serialNext, hs, hv],
          hpop _ rfl rfl, by simpa [serialBytes, hv] using hrest⟩
      | node l r =>
        obtain ⟨a, c, hleaf, ha, hc, -, hpush⟩ := h.expand hs
        obtain ⟨u, v, hu, hv, hstacked⟩ := hpush { node := a } { node := c } rfl rfl (Nat.zero_le _) (Nat.zero_le _)
        obtain ⟨rfl, hrest⟩ : 0x00 = b ∧ serialBytes none (l :: r :: ts) = bytes := by simpa [serialBytes, CodeTree.header] using hb
        refine ⟨by simp [State.serialByte, hs, hleaf, Config.tagInt], none, v.stack, l :: r :: ts, ?_, ?_, hrest⟩
        all_goals
          obtain ⟨-, rfl⟩ := State.push_ok.1 hu
          obtain ⟨-, rfl⟩ := State.push_ok.1 hv
        · simp only [State.serialNext, hs, hleaf, ha, hc, hu, hv, Bool.false_eq_true, if_false]
        · exact hstacked

section loop
variable {s : State} {p : Option Idx} {ts : List CodeTree} {turns : Nat} {ys : List Byte} (hp : s.pace = none)
include hp

/-- By induction over the bytes that the sink accepts. -/
theorem serialLoop_accepts (xs : List Byte) (h : s.Stacked ts) (hb : serialBytes p ts = xs ++ ys) (ha : s.Accepts xs.length) :
    ∃ q stack us, State.Stacked { s.offered xs with stack := stack } us ∧ serialBytes q us = ys ∧
      serialLoop (xs.length + turns) p s = serialLoop turns q { s.offered xs with stack := stack } := by
  induction xs generalizing s p ts with
  | nil => exact ⟨p, s.stack, ts, by simpa using h, hb, by simp⟩
  | cons b xs ih =>
    obtain ⟨hbyte, -⟩ := h.serialByte_cons hb
    obtain ⟨-, q, stack, us, hnext, hus, hrest⟩ := (h.congr rfl rfl : (s.offered [b]).Stacked ts).serialByte_cons hb
    have hfirst : s.answerAt 0 = some .ok := ha 0 (by simp)
    have ha' : (s.offered [b]).Accepts xs.length := State.Accepts.offered (ha.mono (by simp; omega))
    obtain ⟨q', stack', us', hus', hrest', hloop⟩ := ih (s := { s.offered [b] with stack := stack }) hp hus hrest ha'
    have hstate : ({ State.offered { s.offered [b] with stack := stack } xs with stack := stack' } : State) =
        { s.offered (b :: xs) with stack := stack' } := congrArg (fun u => { u with stack := stack' }) (s.offered_append [b] xs :)
    rw [hstate] at hus' hloop
    refine ⟨q', stack', us', hus', hrest', ?_⟩
    rw [List.length_cons, Nat.succ_add, serialLoop.eq_def]
    simp only [hbyte, emit_of_answer_ok hp b hfirst, hnext, hloop]

/-- All of the bytes accepted (R123). -/
theorem serialLoop_completes (h : s.Stacked ts) (ha : s.Accepts (serialBytes p ts).length) (ht : (serialBytes p ts).length ≤ turns) :
    serialLoop turns p s = .ret { s.offered (serialBytes p ts) with stack := [] } := by
  obtain ⟨n, rfl⟩ := Nat.exists_eq_add_of_le ht
  obtain ⟨q, stack, us, hus, hrest, hloop⟩ := serialLoop_accepts (turns := n) hp _ h (List.append_nil _).symm ha
  obtain ⟨hbyte, hstack⟩ := hus.serialByte_none hrest
  obtain rfl : stack = [] := hstack
  rw [hloop, serialLoop.eq_def]
  simp only [hbyte]

/-- The byte after the first k failed (R146, R150). -/
theorem serialLoop_fails {k : Nat} (h : s.Stacked ts) (hf : s.FailsAt k) (hk : k < (serialBytes p ts).length)
    (ht : (serialBytes p ts).length ≤ turns) : ∃ stack, serialLoop turns p s =
      .raised .snkIo 0 { (s.offered ((serialBytes p ts).take k)).refused with stack := stack } := by
  obtain ⟨n, rfl⟩ := Nat.exists_eq_add_of_le (Nat.succ_le_of_lt (hk.trans_le ht))
  have hlen : ((serialBytes p ts).take k).length = k := List.length_take_of_le hk.le
  obtain ⟨q, stack, us, hus, hrest, hloop⟩ := serialLoop_accepts (turns := n + 1) (ys := (serialBytes p ts).drop k) hp
    ((serialBytes p ts).take k) h (List.take_append_drop _ _).symm (hlen.symm ▸ hf.1)
  rw [List.drop_eq_getElem_cons hk] at hrest
  obtain ⟨hbyte, -⟩ := hus.serialByte_cons hrest
  have hfail : State.answerAt { s.offered ((serialBytes p ts).take k) with stack := stack } 0 = some .fail := by
    have : (s.offered ((serialBytes p ts).take k)).answerAt 0 = some .fail := by rw [s.answerAt_offered, hlen]; exact hf.2
    exact this
  refine ⟨stack, ?_⟩
  rw [hlen, show k + (n + 1) = k + 1 + n by omega] at hloop
  rw [hloop, serialLoop.eq_def]
  simp only [hbyte, emit_of_answer_fail (s := { s.offered ((serialBytes p ts).take k) with stack := stack }) hp _ hfail]
  rfl

end loop

/-- A header has a tag for each internal node and two bytes for each leaf (R84). -/
theorem CodeTree.length_header (t : CodeTree) : t.header.length = 3 * t.internals + 2 := by
  induction t with
  | leaf v => rfl
  | node l r ihl ihr =>
    simp only [CodeTree.header, CodeTree.internals, List.length_cons, List.length_append, ihl, ihr]
    omega

section body
variable {s : State} {tree : CodeTree}

theorem serialBytes_root (tree : CodeTree) : serialBytes none [tree] = tree.header := by simp [serialBytes]

theorem State.HasTree.length_header_le (h : s.HasTree tree) : tree.header.length ≤ headerBytes := by
  obtain ⟨-, hsize, -⟩ := h
  rw [tree.length_header, headerBytes]
  omega

theorem treeSerializeBody_of_ne_nil (h : s.root ≠ Config.nil) :
    treeSerializeBody s = serialLoop headerBytes none { s with stack := [{ node := s.root }] } := if_neg h

theorem treeSerializeBody_completes (h : s.HasTree tree) (hp : s.pace = none) (ha : s.Accepts tree.header.length) :
    treeSerializeBody s = .ret { s.offered tree.header with stack := [] } := by
  have hstacked : State.Stacked { s with stack := [{ node := s.root }] } [tree] := h.stacked rfl rfl
  have hloop := serialLoop_completes (p := none) (turns := headerBytes) (by exact hp) hstacked
  rw [serialBytes_root] at hloop
  rw [treeSerializeBody_of_ne_nil h.root_ne_nil, hloop ha h.length_header_le]
  rfl

theorem treeSerializeBody_fails {k : Nat} (h : s.HasTree tree) (hp : s.pace = none) (hf : s.FailsAt k) (hk : k < tree.header.length) :
    ∃ stack, treeSerializeBody s = .raised .snkIo 0 { (s.offered (tree.header.take k)).refused with stack := stack } := by
  have hstacked : State.Stacked { s with stack := [{ node := s.root }] } [tree] := h.stacked rfl rfl
  have hloop := serialLoop_fails (p := none) (turns := headerBytes) (k := k) (by exact hp) hstacked
  rw [serialBytes_root] at hloop
  obtain ⟨stack, heq⟩ := hloop hf hk h.length_header_le
  exact ⟨stack, by rw [treeSerializeBody_of_ne_nil h.root_ne_nil, heq]; rfl⟩

theorem exec_treeSerialize_ready (h : s.Ready) :
    exec .treeSerialize s = settle 0x50 (treeSerializeBody (s.accept 0x50 (.enter .treeSerialize) [])) := command_ready h.1 h.2.1 h.2.2

end body

/-- Settles O26: the header of the tree at ROOT is what the stack holds at the start (`treeSerializeBody_completes`). -/
theorem treeSerializeEmitsHeader : Obligations.TreeSerializeEmitsHeader := by
  refine ⟨fun s tree hs htree ha => ?tree, fun s hs hroot => ?empty⟩
  case tree =>
    have hbody := treeSerializeBody_completes (s := s.accept 0x50 (.enter .treeSerialize) []) (htree.congr rfl rfl) hs.2.2 ha
    refine ⟨_, by rw [exec_treeSerialize_ready hs, hbody]; exact settle_ret_free _ hs.2.2, ?_⟩
    simp [State.offered, State.complete, State.accept, State.completed]
  case empty =>
    have hbody : treeSerializeBody (s.accept 0x50 (.enter .treeSerialize) []) = .ret (s.accept 0x50 (.enter .treeSerialize) []) := if_pos hroot
    rw [exec_treeSerialize_ready hs, hbody]
    exact settle_ret_free _ hs.2.2

end Sys2Proof.Machine
end

section
/-! PROOFS. TREE_DESERIALIZE reads the header of a given tree and builds that tree (spec/45_tree_codec.md R124 to R129; 30_encoding.md R82).

The idea: a subtree read below a hole takes the slots from NEXT_INT on, and whatever is written later lies outside these slots. -/

namespace Sys2Proof.Machine

open Sys2Proof

/-! ### Reading on -/

/-- The state once ReadIn has taken n bytes and left ts. -/
def State.readIn (s : State) (n : Nat) (ts : List Token) : State := { s with inq := ts, inCount := s.inCount + BitVec.ofNat 32 n }

theorem State.readIn_readIn (s : State) (m n : Nat) (ts us : List Token) : (s.readIn m ts).readIn n us = s.readIn (m + n) us := by
  simp [State.readIn, BitVec.add_assoc, BitVec.ofNat_add]

theorem consume_byte_free {s : State} (hp : s.pace = none) (b : Byte) (ts : List Token) : s.consume (.byte b) ts = s.readIn 1 ts := by
  rw [State.consume, State.tick_none hp]
  rfl

theorem consume_endOfPass_free {s : State} (hp : s.pace = none) (ts : List Token) : s.consume .endOfPass ts = { s with inq := ts } := by
  rw [State.consume, State.tick_none hp]

@[simp] theorem State.readIn_zero (s : State) : s.readIn 0 s.inq = s := by simp [State.readIn]

section steps
variable {σ : Type} {pos : σ → Pos} {body : σ → Token → State → LoopStep σ} {x y : σ} {s u : State} {b : Byte} {ts : List Token}
  (hp : s.pace = none)
include hp

/-- A loop that takes a byte and goes on. -/
theorem overTokens_byte_more (hb : body x (.byte b) (s.readIn 1 ts) = .more y u) :
    overTokens pos body (.byte b :: ts) x s = overTokens pos body ts y u :=
  overTokens_more (State.held_none hp) (by rw [consume_byte_free hp, hb])

/-- A loop that a byte ends. -/
theorem overTokens_byte_stop {r : Run} (hb : body x (.byte b) (s.readIn 1 ts) = .stop r) : overTokens pos body (.byte b :: ts) x s = r :=
  overTokens_stop (State.held_none hp) (by rw [consume_byte_free hp, hb])

/-- A loop that `End` ends. -/
theorem overTokens_endOfPass_stop {r : Run} (hb : body x .endOfPass { s with inq := ts } = .stop r) :
    overTokens pos body (.endOfPass :: ts) x s = r :=
  overTokens_stop (State.held_none hp) (by rw [consume_endOfPass_free hp, hb])

end steps

section steps
variable {s u : State} {p q : ParsePoint} {b : Byte} {ts : List Token} (hp : s.pace = none) (hq : s.inq = .byte b :: ts)
include hp hq

theorem parseLoop_more (hb : parseToken p (.byte b) (s.readIn 1 ts) = .more q u) (hu : u.inq = ts) : parseLoop p s = parseLoop q u := by
  rw [parseLoop, hq, overTokens_byte_more hp hb, parseLoop, hu]

theorem parseLoop_stop {r : Run} (hb : parseToken p (.byte b) (s.readIn 1 ts) = .stop r) : parseLoop p s = r := by
  rw [parseLoop, hq, overTokens_byte_stop hp hb]

end steps

/-- What ParseHeader does once a subtree is complete: success when no hole is left, else the next tag (R125). -/
def parseRest (r : Idx) (s : State) : Run :=
  match s.stack with
  | [] => finishHeader r s
  | _ :: _ => parseLoop (.tag r) s

section leaf
variable {s u : State} {r : Idx} {v : Byte} {ts : List Token} (hp : s.pace = none)
include hp

/-- A leaf's tag and value (R82): the leaf fills the first hole. -/
theorem parseLoop_leaf (hq : s.inq = .byte 0x01 :: .byte v :: ts) (hu : (s.readIn 2 ts).attach (leafSlot v) = .ok u) :
    parseLoop (.tag r) s = parseRest r u := by
  obtain ⟨x, j, -, -, hueq, -⟩ := attach_ok hu
  have hinq : u.inq = ts := by rw [hueq]; rfl
  have htag : parseLoop (.tag r) s = parseLoop (.value r) (s.readIn 1 (.byte v :: ts)) := parseLoop_more hp hq rfl rfl
  have hvalue : parseToken (.value r) (.byte v) ((s.readIn 1 (.byte v :: ts)).readIn 1 ts) =
      parseEnd r (leafSlot v) u := by rw [s.readIn_readIn]; simp [parseToken, parseNode, hu]
  rw [htag, parseRest]
  rw [parseEnd, if_pos (isLeaf_leafSlot v)] at hvalue
  split
  next hs =>
    simp only [hs] at hvalue
    exact parseLoop_stop (s := s.readIn 1 (.byte v :: ts)) hp rfl hvalue
  next hs =>
    simp only [hs] at hvalue
    exact parseLoop_more (s := s.readIn 1 (.byte v :: ts)) hp rfl hvalue hinq

end leaf

/-- The node of a TAG_INT that has just been read is in its slot; NEXT_INT is the next one (R125). -/
def State.allocated (s : State) (j : Fin 255) : State :=
  { s with node := s.node.set j ⟨true, Config.nil, Config.nil, 0⟩, nextInt := s.nextInt + 1 }

/-- An internal node waits for its left child (R125). -/
def State.opened (s : State) (n : Idx) : State := { s with stack := { node := n, side := .left } :: s.stack }

section internal
variable {s u : State} {r : Idx} {ts : List Token} {j : Fin 255}

theorem parseInternal_allocated (hj : slot? s.nextInt = some j) (p : ParsePoint) :
    parseInternal p s = parseNode p s.nextInt (s.allocated j) := by
  have hroom : s.nextInt ≠ Config.nil := fun e => by
    rw [slot?_eq_none_iff.2 (.inr e)] at hj
    cases hj
  rw [parseInternal, if_neg hroom, show s.alloc ⟨true, Config.nil, Config.nil, 0⟩ = .ok (s.allocated j) from State.alloc_ok.2 ⟨j, hj, rfl⟩]

theorem parseEnd_internal {n : Idx} (hn : isLeaf n = false) (hroom : u.stack.length < 256) :
    parseEnd r n u = .more (.tag r) (u.opened n) := by
  rw [parseEnd, if_neg (by simp [hn]), State.push_ok.2 ⟨hroom, rfl⟩]
  rfl

variable (hp : s.pace = none) (hq : s.inq = .byte 0x00 :: ts) (hj : slot? s.nextInt = some j)
include hp hq hj

/-- A TAG_INT below the root: its node fills the first hole and opens two (R125). -/
theorem parseLoop_internal (hu : ((s.readIn 1 ts).allocated j).attach s.nextInt = .ok u) (hroom : u.stack.length < 256) :
    parseLoop (.tag r) s = parseLoop (.tag r) (u.opened s.nextInt) := by
  obtain ⟨x, i, -, -, hueq, -⟩ := attach_ok hu
  have hinq : u.inq = ts := by rw [hueq]; rfl
  refine parseLoop_more hp hq ?_ hinq
  calc parseToken (.tag r) (.byte 0x00) (s.readIn 1 ts) = parseInternal (.tag r) (s.readIn 1 ts) := rfl
    _ = parseEnd r s.nextInt u := by
      rw [parseInternal_allocated (s := s.readIn 1 ts) hj, parseNode, show (s.readIn 1 ts).nextInt = s.nextInt from rfl, hu]
    _ = .more (.tag r) (u.opened s.nextInt) := parseEnd_internal (isLeaf_of_slot hj) hroom

/-- The first TAG_INT: its node is the root (R125). -/
theorem parseLoop_root (hroom : s.stack.length < 256) :
    parseLoop .first s = parseLoop (.tag s.nextInt) (((s.readIn 1 ts).allocated j).opened s.nextInt) := by
  refine parseLoop_more hp hq ?_ rfl
  calc parseToken .first (.byte 0x00) (s.readIn 1 ts) = parseInternal .first (s.readIn 1 ts) := rfl
    _ = parseEnd s.nextInt s.nextInt ((s.readIn 1 ts).allocated j) := parseInternal_allocated (s := s.readIn 1 ts) hj .first
    _ = .more (.tag s.nextInt) _ := parseEnd_internal (isLeaf_of_slot hj) hroom

end internal

/-! ### Slots that agree -/

theorem State.Agrees.trans {s u w : State} {c k : Nat} {hs : List Hole} (h : s.Agrees u c k hs) (h' : u.Agrees w c k hs) :
    s.Agrees w c k hs := fun n j hj hc hk =>
  have ⟨hv, hside⟩ := h n j hj hc hk
  have ⟨hv', hside'⟩ := h' n j hj hc hk
  ⟨hv'.trans hv, fun side hm => (hside' side hm).trans (hside side hm)⟩

/-- Fewer slots agree but for the holes that lie in them. -/
theorem State.Agrees.narrow {s u : State} {c c' k k' : Nat} {hs hs' : List Hole} (h : s.Agrees u c k hs) (hc : c ≤ c') (hk : k' ≤ k)
    (hsub : ∀ x ∈ hs, c' ≤ x.1.toNat → x.1.toNat < k' → x ∈ hs') : s.Agrees u c' k' hs' := fun n j hj hcn hkn =>
  have ⟨hv, hside⟩ := h n j hj (hc.trans hcn) (hkn.trans_le hk)
  ⟨hv, fun side hm => hside side fun hmem => hm (hsub _ hmem hcn hkn)⟩

/-! ### Reading a subtree -/

/-- A header is being read: its holes are in slots already given out, which are at least as many as the nodes on the stack; no node has a weight yet
(R129). -/
structure State.Growing (s : State) : Prop where
  free : s.pace = none
  holes : ∀ x ∈ s.holes, x.1.toNat < s.nextInt.toNat ∧ ∃ j, slot? x.1 = some j
  depth : s.stack.length + 256 ≤ s.nextInt.toNat
  weights : ∀ j, (s.node.get j).freq = 0

/-- u is s once a node n has been hung in the hole x. -/
structure State.Hung (s : State) (n : Idx) (x : Hole) (u : State) : Prop where
  attach : s.attach n = .ok u
  growing : u.Growing
  holes : s.holes = x :: u.holes
  child : u.child x.2 x.1 = .ok n
  agrees : ∀ c k, s.Agrees u c k [x]
  frame : u = { s with node := u.node, stack := u.stack }

theorem State.Growing.hang {s : State} (h : s.Growing) (hs : s.stack ≠ []) (n : Idx) : ∃ x u, s.Hung n x u := by
  obtain ⟨u, hu⟩ := attach_of_hole (mt holes_eq_nil_iff.1 hs) (fun x hx => (h.holes x hx).2) n
  obtain ⟨x, j, hj, hholes, hueq, hlen⟩ := attach_ok hu
  have hnode : u.node = s.node.set j ((s.node.get j).withChild x.2 n) := by rw [hueq]
  have hnext : u.nextInt = s.nextInt := by rw [hueq]
  obtain ⟨hchild, hagrees⟩ := child_set_withChild s hj n hnode
  refine ⟨x, u, hu, ⟨by rw [hueq]; exact h.free, fun y hy => hnext ▸ h.holes y (hholes ▸ List.mem_cons_of_mem _ hy), ?_, fun i => ?_⟩, hholes,
    hchild, hagrees, by rw [hueq]⟩
  · have := h.depth
    rw [hnext]
    omega
  · rw [hnode, Table.get_set]
    split
    · cases x.2 <;> exact h.weights j
    · exact h.weights i

/-- A node just given out, with its two holes. -/
theorem State.Growing.opened {s : State} (h : s.Growing) {n : Idx} {j : Fin 255} (hj : slot? n = some j) (hn : n.toNat < s.nextInt.toNat)
    (hroom : s.stack.length + 257 ≤ s.nextInt.toNat) : (s.opened n).Growing := by
  refine ⟨h.free, fun x hx => ?_, by show s.stack.length + 1 + 256 ≤ s.nextInt.toNat; omega, h.weights⟩
  have hx : x = (n, .left) ∨ x = (n, .right) ∨ x ∈ s.holes := by
    simpa [State.holes, State.opened, StackEntry.holes] using hx
  rcases hx with rfl | rfl | hx
  · exact ⟨hn, j, hj⟩
  · exact ⟨hn, j, hj⟩
  · exact h.holes x hx

theorem State.Growing.allocated {s : State} (h : s.Growing) {j : Fin 255} (hj : slot? s.nextInt = some j) : (s.allocated j).Growing := by
  obtain ⟨hsucc, -⟩ := nextInt_succ hj
  have hlt : s.nextInt.toNat < (s.allocated j).nextInt.toNat := by
    show s.nextInt.toNat < (s.nextInt + 1).toNat
    omega
  refine ⟨h.free, fun x hx => ⟨(h.holes x hx).1.trans hlt, (h.holes x hx).2⟩, h.depth.trans hlt.le, fun i => ?_⟩
  show ((s.node.set j _).get i).freq = 0
  rw [Table.get_set]
  split
  · rfl
  · exact h.weights i

/-- u is s once the header of the tree t has been read before ts, and the tree hangs in the first hole, in slots of its own. -/
structure State.Plants (s : State) (t : CodeTree) (ts : List Token) (u : State) : Prop where
  growing : u.Growing
  frame : u.lessHeader = s.lessHeader
  inq : u.inq = ts
  inCount : u.inCount = s.inCount + BitVec.ofNat 32 t.header.length
  slots : u.nextInt.toNat = s.nextInt.toNat + t.internals
  hangs : ∃ x n, s.holes = x :: u.holes ∧ u.child x.2 x.1 = .ok n ∧ s.Agrees u 256 s.nextInt.toNat [x] ∧
    ∀ w, u.Agrees w s.nextInt.toNat u.nextInt.toNat [] → w.Denotes t n


/-- A leaf's header below the root. -/
theorem parseLoop_plants_leaf {s : State} (h : s.Growing) (hs : s.stack ≠ []) {v : Byte} {ts : List Token}
    (hq : s.inq = (CodeTree.leaf v).header.map .byte ++ ts) (r : Idx) :
    ∃ u, s.Plants (.leaf v) ts u ∧ parseLoop (.tag r) s = parseRest r u := by
  have hread : (s.readIn 2 ts).Growing := ⟨h.free, h.holes, h.depth, h.weights⟩
  obtain ⟨x, u, hhung⟩ := hread.hang hs (leafSlot v)
  refine ⟨u, ⟨hhung.growing, ?_, ?_, ?_, ?_, x, leafSlot v, hhung.holes, hhung.child, hhung.agrees _ _, fun _ _ => rfl⟩,
    parseLoop_leaf h.free hq hhung.attach⟩
  all_goals rw [hhung.frame]; rfl

/-- u is s once a TAG_INT below the root has been read before ts: its node n hangs in the first hole and brings two. -/
structure State.Branches (s : State) (ts : List Token) (n : Idx) (j : Fin 255) (u : State) : Prop where
  growing : u.Growing
  frame : u.lessHeader = s.lessHeader
  inq : u.inq = ts
  inCount : u.inCount = s.inCount + 1
  slots : u.nextInt.toNat = s.nextInt.toNat + 1
  valid : (u.node.get j).valid = true
  hangs : ∃ x holes, s.holes = x :: holes ∧ u.holes = (n, .left) :: (n, .right) :: holes ∧ u.child x.2 x.1 = .ok n ∧
    s.Agrees u 256 s.nextInt.toNat [x]

theorem agrees_allocated (s : State) {j : Fin 255} (hj : slot? s.nextInt = some j) (c : Nat) (hs : List Hole) :
    s.Agrees (s.allocated j) c s.nextInt.toNat hs := by
  refine agrees_of_node_eq (fun i hi => Table.get_set_ne _ _ ?_) c hs
  rintro rfl
  have := slot?_eq_some_iff.1 hj
  omega

theorem parseLoop_branches {s : State} (h : s.Growing) (hs : s.stack ≠ []) {j : Fin 255} (hj : slot? s.nextInt = some j) {ts : List Token}
    (hq : s.inq = .byte 0x00 :: ts) (r : Idx) :
    ∃ u, s.Branches ts s.nextInt j u ∧ parseLoop (.tag r) s = parseLoop (.tag r) u := by
  have hread : (s.readIn 1 ts).Growing := ⟨h.free, h.holes, h.depth, h.weights⟩
  obtain ⟨x, u, hhung⟩ := (hread.allocated hj).hang hs s.nextInt
  obtain ⟨_, _, -, -, -, hlen⟩ := attach_ok hhung.attach
  have hlen : u.stack.length ≤ s.stack.length := hlen
  have hdepth := h.depth
  have hlow := slot?_eq_some_iff.1 hj
  have hnext : u.nextInt.toNat = s.nextInt.toNat + 1 := by
    rw [hhung.frame]
    exact (nextInt_succ hj).1
  have hne : x.1 ≠ s.nextInt := fun e => by
    have := (h.holes x (by rw [show s.holes = x :: u.holes from hhung.holes]; simp)).1
    rw [e] at this
    omega
  refine ⟨u.opened s.nextInt, ⟨hhung.growing.opened hj (by omega) (by omega), ?_, ?_, ?_, hnext, ?_, x, u.holes, hhung.holes, rfl,
    hhung.child, (agrees_allocated (s.readIn 1 ts) hj 256 [x]).trans (hhung.agrees _ _)⟩,
    parseLoop_internal h.free hq hj hhung.attach (by omega)⟩
  · show u.lessHeader = s.lessHeader
    rw [hhung.frame]
    rfl
  · show u.inq = ts
    rw [hhung.frame]
    rfl
  · show u.inCount = s.inCount + 1
    rw [hhung.frame]
    rfl
  · have hvalid := (hhung.agrees 256 511 s.nextInt j hj (by omega) (by omega)).1
    exact hvalid.trans (by simp [State.allocated])

section children
variable {s a b : State} {l r : CodeTree} {n : Idx} {j : Fin 255} {holes : List Hole} {ts us : List Token}
  (hholes : s.holes = (n, .left) :: (n, .right) :: holes) (hl : s.Plants l ts a) (hr : a.Plants r us b)
include hholes hl hr

theorem State.Plants.pair_holes : b.holes = holes := by
  obtain ⟨x, -, hx, -⟩ := hl.hangs
  obtain ⟨y, -, hy, -⟩ := hr.hangs
  obtain ⟨-, ha⟩ := List.cons.inj (hholes.symm.trans hx)
  exact (List.cons.inj (ha.trans hy)).2.symm

/-- Two subtrees read one after the other under a node n make the tree at n, and change no slot before it. -/
theorem State.Plants.pair (hj : slot? n = some j) (hn : n.toNat + 1 = s.nextInt.toNat) (hv : (s.node.get j).valid = true) :
    s.Agrees b 256 n.toNat [] ∧ ∀ w, b.Agrees w n.toNat b.nextInt.toNat [] → w.Denotes (.node l r) n := by
  obtain ⟨x, nl, hx, hchildl, hagreel, hdenotel⟩ := hl.hangs
  obtain ⟨y, nr, hy, hchildr, hagreer, hdenoter⟩ := hr.hangs
  obtain ⟨rfl, ha⟩ := List.cons.inj (hholes.symm.trans hx)
  obtain ⟨rfl, -⟩ := List.cons.inj (ha.trans hy)
  have hsa := hl.slots
  have hab := hr.slots
  have h256 : 256 ≤ n.toNat := by rw [slot?_eq_some_iff.1 hj]; omega
  have outside : ∀ side : Side, ∀ c k, n.toNat < c ∨ k ≤ n.toNat → ∀ z ∈ [((n, side) : Hole)],
      c ≤ z.1.toNat → z.1.toNat < k → z ∈ ([] : List Hole) := by
    intro side c k hout z hz hc hk
    obtain rfl := List.mem_singleton.1 hz
    have hc : c ≤ n.toNat := hc
    have hk : n.toNat < k := hk
    omega
  refine ⟨(hagreel.narrow le_rfl (by omega) (outside _ _ _ (.inr le_rfl))).trans (hagreer.narrow le_rfl (by omega) (outside _ _ _ (.inr le_rfl))),
    fun w hw => ?_⟩
  obtain ⟨hwv, hwside⟩ := hw n j hj le_rfl (by omega)
  obtain ⟨hbv, hbside⟩ := hagreer n j hj h256 (by omega)
  obtain ⟨hav, -⟩ := hagreel n j hj h256 (by omega)
  obtain ⟨hwl, hwr⟩ := State.child_of_slot (s := w) hj
  have hleft : (w.node.get j).left = nl := by
    rw [hwside .left (by simp), hbside .left (by simp), hchildl] at hwl
    exact (Except.ok.inj hwl).symm
  have hright : (w.node.get j).right = nr := by
    rw [hwside .right (by simp), hchildr] at hwr
    exact (Except.ok.inj hwr).symm
  refine ⟨j, hj, by rw [hwv, hbv, hav, hv], ?_, ?_⟩
  · rw [hleft]
    exact hdenotel w ((hagreer.narrow (by omega) le_rfl (outside _ _ _ (.inl (by omega)))).trans (hw.narrow (by omega) (by omega) nofun))
  · rw [hright]
    exact hdenoter w (hw.narrow (by omega) le_rfl nofun)

end children

theorem ofNat_length_header_node (l r : CodeTree) : BitVec.ofNat 32 (CodeTree.node l r).header.length =
    1 + BitVec.ofNat 32 l.header.length + BitVec.ofNat 32 r.header.length := by
  rw [CodeTree.header, List.length_cons, List.length_append, Nat.add_comm, BitVec.ofNat_add, BitVec.ofNat_add, ← BitVec.add_assoc]
  rfl

/-- An internal node with its two subtrees, one after the other. -/
theorem State.Branches.plants {s u a b : State} {l r : CodeTree} {ts us vs : List Token} {j : Fin 255} (hs : s.Growing)
    (h : s.Branches ts s.nextInt j u) (hj : slot? s.nextInt = some j) (hl : u.Plants l us a) (hr : a.Plants r vs b) : s.Plants (.node l r) vs b := by
  obtain ⟨x, holes, hx, hu, hchild, hagrees⟩ := h.hangs
  have hsucc := h.slots
  obtain ⟨hbelow, hdenotes⟩ := State.Plants.pair hu hl hr hj hsucc.symm h.valid
  refine ⟨hr.growing, (hr.frame.trans hl.frame).trans h.frame, hr.inq, ?_, ?_, x, s.nextInt, ?_, ?_, hagrees.trans
    (hbelow.narrow le_rfl le_rfl nofun), hdenotes⟩
  · rw [hr.inCount, hl.inCount, h.inCount, ofNat_length_header_node]
    simp only [BitVec.add_assoc]
  · rw [hr.slots, hl.slots, hsucc, CodeTree.internals]
    omega
  · rw [hx, State.Plants.pair_holes hu hl hr]
  · obtain ⟨hlt, i, hi⟩ := hs.holes x (by simp [hx])
    rw [← hchild]
    exact (hbelow x.1 i hi (by rw [slot?_eq_some_iff.1 hi]; omega) hlt).2 x.2 (by simp)

theorem stack_ne_nil {s : State} {x : Hole} {holes : List Hole} (h : s.holes = x :: holes) : s.stack ≠ [] := fun hs =>
  List.cons_ne_nil _ _ (h.symm.trans (holes_eq_nil_iff.2 hs))

theorem parseRest_of_ne_nil {s : State} {r : Idx} (h : s.stack ≠ []) : parseRest r s = parseLoop (.tag r) s := by
  obtain ⟨e, rest, hs⟩ := List.exists_cons_of_ne_nil h
  simp [parseRest, hs]

theorem parseRest_nil {s : State} {r : Idx} (h : s.stack = []) (hp : s.pace = none) : parseRest r s = .ret { s with root := r } := by
  simp [parseRest, h, finishHeader_free hp]

/-- The header of a subtree, read below the root, plants the subtree in the first hole (R125, R128): by induction over the subtree. -/
theorem parseLoop_plants (t : CodeTree) {s : State} (h : s.Growing) (hs : s.stack ≠ []) {ts : List Token}
    (hq : s.inq = t.header.map .byte ++ ts) (hroom : s.nextInt.toNat + t.internals ≤ 511) (r : Idx) :
    ∃ u, s.Plants t ts u ∧ parseLoop (.tag r) s = parseRest r u := by
  induction t generalizing s ts with
  | leaf v => exact parseLoop_plants_leaf h hs hq r
  | node a b iha ihb =>
    simp only [CodeTree.internals] at hroom
    have hlow : 256 ≤ s.nextInt.toNat := le_of_add_le_right h.depth
    have hj : slot? s.nextInt = some ⟨s.nextInt.toNat - 256, by omega⟩ := slot?_eq_some_iff.2 (by simp; omega)
    have hq' : s.inq = .byte 0x00 :: (a.header.map .byte ++ (b.header.map .byte ++ ts)) := by simpa [CodeTree.header] using hq
    obtain ⟨u, hu, hloopu⟩ := parseLoop_branches h hs hj hq' r
    obtain ⟨x, holes, -, hholes, -⟩ := hu.hangs
    have hsu := hu.slots
    obtain ⟨v, hv, hloopv⟩ := iha hu.growing (stack_ne_nil hholes) hu.inq (by omega)
    obtain ⟨y, -, hy, -⟩ := hv.hangs
    obtain ⟨-, hvholes⟩ := List.cons.inj (hholes.symm.trans hy)
    have hvs := stack_ne_nil hvholes.symm
    have huv := hv.slots
    obtain ⟨w, hw, hloopw⟩ := ihb hv.growing hvs hv.inq (by omega)
    exact ⟨w, hu.plants h hj hv hw, by rw [hloopu, hloopv, parseRest_of_ne_nil hvs, hloopw]⟩

/-! ### The whole header -/

/-- TREE_DESERIALIZE's body on the header of a tree (R125, R128): the root takes slot 256 and opens two holes, which its subtrees fill. -/
theorem treeDeserializeBody_builds {s : State} {tree : CodeTree} {ts : List Token} (hp : s.pace = none) (hnode : tree.isNode = true)
    (hsize : tree.internals ≤ 255) (hq : s.inq = tree.header.map .byte ++ ts) :
    ∃ u : State, treeDeserializeBody s = .ret { u with root := 256 } ∧ u.lessHeader = s.beforeHeader.lessHeader ∧ u.inq = ts ∧
      u.inCount = s.inCount + BitVec.ofNat 32 tree.header.length ∧ u.nextInt.toNat = 256 + tree.internals ∧ (∀ j, (u.node.get j).freq = 0) ∧
      ∀ w : State, w.node = u.node → w.Denotes tree 256 := by
  cases tree with
  | leaf v => cases hnode
  | node a b =>
    simp only [CodeTree.internals] at hsize
    have hq' : s.inq = .byte 0x00 :: (a.header.map .byte ++ (b.header.map .byte ++ ts)) := by simpa [CodeTree.header] using hq
    have hj : slot? s.beforeHeader.nextInt = some 0 := slot?_eq_some_iff.2 rfl
    have hloop := parseLoop_root (s := s.beforeHeader) hp hq' hj (show 0 < 256 by decide)
    have hstart : (s.beforeHeader.readIn 1 (a.header.map .byte ++ (b.header.map .byte ++ ts))).Growing :=
      ⟨hp, nofun, le_rfl, fun i => congrArg Node.freq (Table.get_fill Node.clear i)⟩
    have hroot := (hstart.allocated hj).opened hj (show 256 < 257 by decide) (le_refl 257)
    obtain ⟨v, hv, hloopv⟩ := parseLoop_plants a hroot (List.cons_ne_nil _ _) (ts := b.header.map .byte ++ ts) rfl
      (show 257 + a.internals ≤ 511 by omega) 256
    have hsv : v.nextInt.toNat = 257 + a.internals := hv.slots
    obtain ⟨x, -, hx, -⟩ := hv.hangs
    obtain ⟨-, hvholes⟩ := List.cons.inj (hx : [((256, .left) : Hole), (256, .right)] = x :: v.holes)
    have hvs := stack_ne_nil hvholes.symm
    obtain ⟨w, hw, hloopw⟩ := parseLoop_plants b hv.growing hvs hv.inq (by omega) 256
    have hws : w.stack = [] := holes_eq_nil_iff.1 (State.Plants.pair_holes rfl hv hw)
    have hpair := State.Plants.pair rfl hv hw hj rfl rfl
    refine ⟨w, ?_, hw.frame.trans hv.frame, hw.inq, ?_, ?_, hw.growing.weights, fun u hu =>
      hpair.2 u (agrees_of_node_eq (fun i _ => by rw [hu]) _ _)⟩
    · rw [show treeDeserializeBody s = parseLoop .first s.beforeHeader from rfl, hloop]
      exact (hloopv.trans ((parseRest_of_ne_nil hvs).trans hloopw)).trans
        (parseRest_nil hws hw.growing.free)
    · rw [hw.inCount, hv.inCount, ofNat_length_header_node]
      exact (congrArg (· + _) (BitVec.add_assoc s.inCount 1 _)).trans (BitVec.add_assoc _ _ _)
    · rw [hw.slots, hsv, CodeTree.internals]
      omega

/-! ### The statements -/

/-- Settles O28: `treeDeserializeBody_builds`. -/
theorem treeDeserializeBuildsTree : Obligations.TreeDeserializeBuildsTree := by
  intro s tree rest hs hnode hsize hq
  obtain ⟨u, hbody, hframe, hinq, hcount, hslots, hweights, hdenotes⟩ :=
    treeDeserializeBody_builds (s := s.accept 0x51 (.enter .treeDeserialize) []) hs.2.2 hnode hsize hq
  have hp : u.pace = none := (congrArg State.pace hframe).trans hs.2.2
  have hheap : u.heap = .fill 256 Config.nil := (congrArg State.heap hframe :)
  have hexec : exec .treeDeserialize s = .next (State.complete { u with root := 256 }) := by
    rw [exec_treeDeserialize_ready hs, hbody]
    exact settle_ret_free _ hp
  refine ⟨_, hexec, ⟨hnode, hsize, hdenotes _ rfl⟩, hweights,
    fun i => (congrArg (Table.get · i) hheap).trans (Table.get_fill _ i), ?_⟩
  have hnext : u.nextInt = BitVec.ofNat 9 (256 + tree.internals) := by
    rw [← hslots, BitVec.ofNat_toNat, BitVec.setWidth_eq]
  have hin : u.inCount = BitVec.ofNat 32 tree.header.length := hcount.trans (BitVec.zero_add _)
  rw [← hnext, ← hin, ← hinq]
  exact (congrArg (fun v => State.complete { v with
    node := u.node, nextInt := u.nextInt, root := 256, heap := u.heap, inq := u.inq, inCount := u.inCount, stack := u.stack }) hframe :)

theorem parseLoop_endOfPass_first {s : State} {ts : List Token} (hp : s.pace = none) (hq : s.inq = .endOfPass :: ts) :
    parseLoop .first s = .ret { s with inq := ts, emptyArt := true } := by
  rw [parseLoop, hq, overTokens_endOfPass_stop hp rfl]

/-- Settles O29: the first token ends ParseHeader before it has given out a slot. -/
theorem treeDeserializeEmptyArtifact : Obligations.TreeDeserializeEmptyArtifact := by
  intro s rest hs hq
  have hbody := parseLoop_endOfPass_first (s := (s.accept 0x51 (.enter .treeDeserialize) []).beforeHeader) hs.2.2 hq
  exact ⟨_, (exec_treeDeserialize_ready hs).trans ((congrArg _ hbody).trans (settle_ret_free _ hs.2.2)), fun j => Table.get_fill _ j,
    fun i => Table.get_fill _ i, rfl⟩

end Sys2Proof.Machine
end

section
/-! PROOFS. What PACK has emitted and keeps in the accumulator once some bits have been put (spec/46_bit_packer.md R130 to R132; 30_encoding.md R85,
R86), and how it ends when the sink fails a payload byte. -/

namespace Sys2Proof.Machine

open Sys2Proof

/-! ### Groups of eight bits (R85) -/

/-- The payload bytes that are complete after these bits. -/
def fullBytes (bits : List Bool) : List Byte := (packBytes bits).take (bits.length / 8)

/-- The bits after the last complete byte. -/
def restBits (bits : List Bool) : List Bool := bits.drop (8 * (bits.length / 8))

theorem packBytes_group {g : List Bool} (hg : g.length = 8) (rest : List Bool) : packBytes (g ++ rest) = byteOfBits g :: packBytes rest := by
  match g, hg with
  | [_, _, _, _, _, _, _, _], _ => rfl

/-- The first n groups make the first n bytes. -/
theorem take_packBytes (n : Nat) {bits : List Bool} (h : 8 * n ≤ bits.length) : (packBytes bits).take n = packBytes (bits.take (8 * n)) := by
  induction n generalizing bits with
  | zero => rfl
  | succ n ih =>
    have hg : (bits.take 8).length = 8 := by simp; omega
    have hsplit : bits.take (8 * (n + 1)) = bits.take 8 ++ (bits.drop 8).take (8 * n) := by rw [← List.take_add]; congr 1; omega
    have hrest := ih (bits := bits.drop 8) (by simp; omega)
    calc (packBytes bits).take (n + 1) = (packBytes (bits.take 8 ++ bits.drop 8)).take (n + 1) := by rw [List.take_append_drop]
      _ = byteOfBits (bits.take 8) :: (packBytes (bits.drop 8)).take n := by rw [packBytes_group hg, List.take_succ_cons]
      _ = packBytes (bits.take (8 * (n + 1))) := by rw [hrest, hsplit, packBytes_group hg]

/-- One group more is one byte more. -/
theorem packBytes_append_group (n : Nat) {bits g : List Bool} (h : bits.length = 8 * n) (hg : g.length = 8) :
    packBytes (bits ++ g) = packBytes bits ++ [byteOfBits g] := by
  induction n generalizing bits with
  | zero =>
    obtain rfl := List.length_eq_zero_iff.1 h
    simpa [packBytes] using packBytes_group hg []
  | succ n ih =>
    have hg' : (bits.take 8).length = 8 := by simp; omega
    rw [← List.take_append_drop 8 bits, List.append_assoc, packBytes_group hg', packBytes_group hg', ih (by simp; omega), List.cons_append]

theorem length_packBytes_groups (n : Nat) {bits : List Bool} (h : bits.length = 8 * n) : (packBytes bits).length = n := by
  induction n generalizing bits with
  | zero =>
    obtain rfl := List.length_eq_zero_iff.1 h
    rfl
  | succ n ih =>
    rw [← List.take_append_drop 8 bits, packBytes_group (by simp; omega), List.length_cons, ih (by simp; omega)]

theorem fullBytes_eq (bits : List Bool) : fullBytes bits = packBytes (bits.take (8 * (bits.length / 8))) := take_packBytes _ (by omega)

@[simp] theorem length_fullBytes (bits : List Bool) : (fullBytes bits).length = bits.length / 8 := by
  rw [fullBytes_eq, length_packBytes_groups (bits.length / 8) (by simp; omega)]

section putBit
variable {bits : List Bool} (x : Bool)

/-- A bit that completes no byte. -/
theorem fullBytes_concat_of_ne (h : bits.length % 8 ≠ 7) :
    fullBytes (bits ++ [x]) = fullBytes bits ∧ restBits (bits ++ [x]) = restBits bits ++ [x] := by
  have hlen : (bits ++ [x]).length / 8 = bits.length / 8 := by simp; omega
  refine ⟨?_, ?_⟩
  · rw [fullBytes_eq, fullBytes_eq, hlen, List.take_append_of_le_length (by omega)]
  · rw [restBits, restBits, hlen, List.drop_append_of_le_length (by omega)]

/-- The eighth bit of a byte. -/
theorem fullBytes_concat_of_eq (h : bits.length % 8 = 7) :
    fullBytes (bits ++ [x]) = fullBytes bits ++ [byteOfBits (restBits bits ++ [x])] ∧ restBits (bits ++ [x]) = [] := by
  have hlen : 8 * ((bits ++ [x]).length / 8) = (bits ++ [x]).length := by simp; omega
  refine ⟨?_, ?_⟩
  · rw [fullBytes_eq, fullBytes_eq, hlen, List.take_length, restBits, ← packBytes_append_group (bits.length / 8) (by simp; omega) (by simp; omega),
      ← List.append_assoc, List.take_append_drop]
  · rw [restBits, hlen, List.drop_length]

end putBit

/-! ### The packer after some bits -/

/-- s after PACK has put these bits, from an empty accumulator, with a sink that accepted every byte they completed. -/
def State.packed (s : State) (bits : List Bool) : State :=
  { s.offered (fullBytes bits) with acc := BitVec.ofNat 8 (bitsValue (restBits bits)), accN := BitVec.ofNat 3 (bits.length % 8) }

theorem packed_nil (s : State) : s.clearAcc.packed [] = s.clearAcc :=
  congrArg (fun u : State => { u with acc := 0, accN := 0 }) (State.offered_nil s.clearAcc)

theorem accN_packed_eq_seven_iff (s : State) (bits : List Bool) : (s.packed bits).accN = 7 ↔ bits.length % 8 = 7 := by
  rw [BitVec.toNat_eq]
  simp [State.packed]

/-- The next offer after the complete bytes. -/
theorem answerAt_packed (s : State) (bits : List Bool) : (s.packed bits).answerAt 0 = s.answerAt (bits.length / 8) := by
  have := s.answerAt_offered (fullBytes bits) 0
  rwa [length_fullBytes] at this

/-- Shifting a bit into the accumulator appends it to the bits. -/
theorem acc_packed_shift (s : State) (bits : List Bool) (x : Bool) :
    2 * (s.packed bits).acc + bitByte x = byteOfBits (restBits bits ++ [x]) := by
  rw [byteOfBits, bitsValue_concat, BitVec.ofNat_add, BitVec.ofNat_mul]
  cases x <;> rfl

section putBits
variable {s : State} {bits : List Bool}

theorem putBit_packed_fills (x : Bool) (h : bits.length % 8 ≠ 7) : (s.packed bits).putBit x = .accepted (s.packed (bits ++ [x])) := by
  obtain ⟨hfull, hrest⟩ := fullBytes_concat_of_ne x h
  have hn : (s.packed bits).accN + 1 = BitVec.ofNat 3 ((bits ++ [x]).length % 8) := by
    rw [List.length_append, List.length_singleton, show (bits.length + 1) % 8 = bits.length % 8 + 1 by omega, BitVec.ofNat_add]
    rfl
  rw [State.putBit, if_neg (mt (accN_packed_eq_seven_iff s bits).1 h), acc_packed_shift, hn, byteOfBits, ← hrest, State.packed, State.packed, hfull]

variable (hp : s.pace = none)
include hp

theorem putBit_packed_emits (x : Bool) (h : bits.length % 8 = 7) (ha : s.answerAt (bits.length / 8) = some .ok) :
    (s.packed bits).putBit x = .accepted (s.packed (bits ++ [x])) := by
  obtain ⟨hfull, hrest⟩ := fullBytes_concat_of_eq x h
  rw [State.putBit, if_pos ((accN_packed_eq_seven_iff s bits).2 h),
    emit_of_answer_ok (s := s.packed bits) hp _ ((answerAt_packed s bits).trans ha), acc_packed_shift]
  have hstate : s.offered (fullBytes (bits ++ [x])) = (s.offered (fullBytes bits)).offered [byteOfBits (restBits bits ++ [x])] := by
    rw [hfull, State.offered_append]
  have hn : BitVec.ofNat 3 ((bits ++ [x]).length % 8) = 0 := by
    rw [List.length_append, List.length_singleton, show (bits.length + 1) % 8 = 0 by omega]
    rfl
  rw [show s.packed (bits ++ [x]) = { s.offered (fullBytes (bits ++ [x])) with
    acc := BitVec.ofNat 8 (bitsValue (restBits (bits ++ [x]))), accN := BitVec.ofNat 3 ((bits ++ [x]).length % 8) } from rfl, hstate, hrest, hn]
  rfl

theorem putBit_packed_fails (x : Bool) (h : bits.length % 8 = 7) (hf : s.answerAt (bits.length / 8) = some .fail) :
    (s.packed bits).putBit x = .failed (s.packed bits).refused := by
  rw [State.putBit, if_pos ((accN_packed_eq_seven_iff s bits).2 h), emit_of_answer_fail (s := s.packed bits) hp _ ((answerAt_packed s bits).trans hf)]

theorem putBit_packed (x : Bool) (ha : s.Accepts ((bits.length + 1) / 8)) : (s.packed bits).putBit x = .accepted (s.packed (bits ++ [x])) := by
  by_cases h : bits.length % 8 = 7
  · exact putBit_packed_emits hp x h (ha _ (by omega))
  · exact putBit_packed_fills x h

end putBits

/-! ### The bits of a code (R130) -/

/-- Bits n - 1 to 0 of the code of b. -/
def State.codeTail (s : State) (b : Byte) (n : Nat) : List Bool := (List.range n).reverse.map (fun i => (s.codeBitsOf b).getLsbD i)

theorem State.codeTail_succ (s : State) (b : Byte) (n : Nat) : s.codeTail b (n + 1) = (s.codeBitsOf b).getLsbD n :: s.codeTail b n := by
  simp [State.codeTail, List.range_succ]

@[simp] theorem State.length_codeTail (s : State) (b : Byte) (n : Nat) : (s.codeTail b n).length = n := by simp [State.codeTail]

theorem State.tableCode_eq_codeTail (s : State) (b : Byte) : s.tableCode b = s.codeTail b (s.codeLenOf b).toNat := rfl

section bits
variable {s : State} (hp : s.pace = none) (b : Byte)
include hp

theorem putBits_packed (n : Nat) {bits : List Bool} (ha : s.Accepts ((bits.length + n) / 8)) :
    putBits b n (s.packed bits) = .more () (s.packed (bits ++ s.codeTail b n)) := by
  induction n generalizing bits with
  | zero => rw [show s.codeTail b 0 = [] from rfl, List.append_nil]; rfl
  | succ n ih =>
    have hbit := putBit_packed (bits := bits) hp ((s.codeBitsOf b).getLsbD n) (ha.mono (by omega))
    have hrest := ih (bits := bits ++ [(s.codeBitsOf b).getLsbD n]) (by simpa [Nat.add_assoc, Nat.add_comm 1] using ha)
    rw [putBits, show (s.packed bits).codeBitsOf b = s.codeBitsOf b from rfl, hbit, s.codeTail_succ]
    simpa using hrest

/-- The byte after the first k is completed in the middle of the code, and the sink fails it: the seven bits before it stay (R131). -/
theorem putBits_packed_fails (n : Nat) {k : Nat} {bits : List Bool} (hf : s.FailsAt k) (hlt : bits.length < 8 * (k + 1))
    (hle : 8 * (k + 1) ≤ bits.length + n) : putBits b n (s.packed bits) =
      .stop (.raised .snkIo 0 (s.packed ((bits ++ s.codeTail b n).take (8 * k + 7))).refused) := by
  induction n generalizing bits with
  | zero => omega
  | succ n ih =>
    rw [putBits, show (s.packed bits).codeBitsOf b = s.codeBitsOf b from rfl, s.codeTail_succ]
    by_cases hlast : bits.length = 8 * k + 7
    · rw [putBit_packed_fails hp _ (by omega) (by rw [show bits.length / 8 = k by omega]; exact hf.2), List.take_left' hlast]
    · have hrest := ih (bits := bits ++ [(s.codeBitsOf b).getLsbD n]) (by simp; omega) (by simp; omega)
      rw [putBit_packed hp _ (hf.1.mono (by omega))]
      simpa using hrest

end bits

/-! ### PACK's loop (R130) -/

theorem packToken_coded {s : State} {b : Byte} (h : s.codeLenOf b ≠ 0) : packToken () (.byte b) s = putBits b (s.codeLenOf b).toNat s := if_neg h

section loop
variable {s : State} {bits : List Bool} {b : Byte} {ts : List Token} (hp : s.pace = none)
include hp

theorem packLoop_byte_more (hc : s.codeLenOf b ≠ 0) (hq : s.inq = .byte b :: ts)
    (ha : s.Accepts ((bits.length + (s.tableCode b).length) / 8)) :
    packLoop (s.packed bits) = packLoop ((s.readIn 1 ts).packed (bits ++ s.tableCode b)) := by
  rw [s.tableCode_eq_codeTail, s.length_codeTail] at ha
  have hbits := putBits_packed (s := s.readIn 1 ts) hp b (s.codeLenOf b).toNat ha
  rw [packLoop, show (s.packed bits).inq = .byte b :: ts from hq,
    overTokens_byte_more (s := s.packed bits) (ts := ts) hp ((packToken_coded (s := (s.readIn 1 ts).packed bits) hc).trans hbits)]
  rfl

/-- By induction over the bytes: their codes are put one after the other. -/
theorem packLoop_packed (bytes : List Byte) (hc : ∀ c ∈ bytes, s.codeLenOf c ≠ 0) (hq : s.inq = bytes.map .byte ++ ts)
    (ha : s.Accepts ((bits.length + (s.payloadBits bytes).length) / 8)) :
    packLoop (s.packed bits) = packLoop ((s.readIn bytes.length ts).packed (bits ++ s.payloadBits bytes)) := by
  induction bytes generalizing s bits with
  | nil =>
    obtain rfl : s.inq = ts := hq
    rw [List.length_nil, s.readIn_zero, show s.payloadBits [] = [] from rfl, List.append_nil]
  | cons b bytes ih =>
    have hcode : s.payloadBits (b :: bytes) = s.tableCode b ++ s.payloadBits bytes := rfl
    rw [hcode, List.length_append] at ha
    have hmore := packLoop_byte_more (bits := bits) hp (hc b List.mem_cons_self) hq (ha.mono (by omega))
    have hrest := ih (s := s.readIn 1 (bytes.map .byte ++ ts)) (bits := bits ++ s.tableCode b) hp (fun c h => hc c (List.mem_cons_of_mem _ h)) rfl
      (by rwa [List.length_append, Nat.add_assoc])
    rw [hcode, ← List.append_assoc, List.length_cons, Nat.add_comm, ← s.readIn_readIn 1 bytes.length (bytes.map .byte ++ ts) ts]
    exact hmore.trans hrest

/-- The sink fails a byte that the code of b completes. -/
theorem packLoop_packed_fails {k : Nat} (hc : s.codeLenOf b ≠ 0) (hq : s.inq = .byte b :: ts) (hf : s.FailsAt k)
    (hlt : bits.length < 8 * (k + 1)) (hle : 8 * (k + 1) ≤ (bits ++ s.tableCode b).length) :
    packLoop (s.packed bits) = .raised .snkIo 0 ((s.readIn 1 ts).packed ((bits ++ s.tableCode b).take (8 * k + 7))).refused := by
  rw [List.length_append, s.tableCode_eq_codeTail, s.length_codeTail] at hle
  have hbits := putBits_packed_fails (s := s.readIn 1 ts) hp b (s.codeLenOf b).toNat hf hlt hle
  rw [packLoop, show (s.packed bits).inq = .byte b :: ts from hq,
    overTokens_byte_stop (s := s.packed bits) (ts := ts) hp ((packToken_coded (s := (s.readIn 1 ts).packed bits) hc).trans hbits)]
  rfl

/-- The sink fails the partial byte of FlushPartial (R132). -/
theorem packLoop_flush_fails (hq : s.inq = .endOfPass :: ts) (hf : s.answerAt (bits.length / 8) = some .fail) (hn : bits.length % 8 ≠ 0) :
    packLoop (s.packed bits) = .raised .snkIo 0 (State.packed { s with inq := ts } bits).refused := by
  have hpart : (State.packed { s with inq := ts } bits).accN ≠ 0 := by
    rw [ne_eq, BitVec.toNat_eq]
    simp [State.packed]
    omega
  have hflush : flushPartial (State.packed { s with inq := ts } bits) = .raised .snkIo 0 (State.packed { s with inq := ts } bits).refused := by
    rw [flushPartial, if_neg hpart,
      emit_of_answer_fail (s := State.packed { s with inq := ts } bits) hp _ ((answerAt_packed _ bits).trans hf)]
  rw [packLoop, show (s.packed bits).inq = .endOfPass :: ts from hq,
    overTokens_endOfPass_stop (s := s.packed bits) hp (congrArg LoopStep.stop hflush)]

end loop

/-- Seven bits after k complete bytes. -/
theorem fullBytes_take {bits : List Bool} {k : Nat} (h : 8 * k + 7 ≤ bits.length) : (bits.take (8 * k + 7)).length = 8 * k + 7 ∧
    fullBytes (bits.take (8 * k + 7)) = (packBytes bits).take k ∧ restBits (bits.take (8 * k + 7)) = (bits.drop (8 * k)).take 7 := by
  have hlen : (bits.take (8 * k + 7)).length = 8 * k + 7 := List.length_take_of_le h
  have hk : (8 * k + 7) / 8 = k := by omega
  refine ⟨hlen, ?_, ?_⟩
  · rw [fullBytes_eq, hlen, hk, List.take_take, Nat.min_eq_left (by omega), take_packBytes k (by omega)]
  · rw [restBits, hlen, hk, List.drop_take, Nat.add_sub_cancel_left]

/-- What PACK leaves when the sink fails the byte after these bits (R150, R152). -/
theorem raiseError_packed (s : State) (bits : List Bool) (n : Nat) (rest : List Token) :
    State.raiseError (((s.accept 0x60 (.enter .pack) []).clearAcc.readIn n rest).packed bits).refused 0x60 .snkIo 0 =
      { s.failedWith 0x60 .snkIo 0 with
        acc := BitVec.ofNat 8 (bitsValue (restBits bits)), accN := BitVec.ofNat 3 (bits.length % 8), inq := rest, inCount := BitVec.ofNat 32 n
        sink := s.sink.drop (bits.length / 8 + 1), out := s.out ++ fullBytes bits, outCount := BitVec.ofNat 32 (bits.length / 8) } := by
  simp [State.packed, State.refused, State.offered, State.raiseError, State.failedWith, State.readIn, State.accept, State.clearAcc]

theorem exec_pack_ready {s : State} (h : s.Ready) :
    exec .pack s = settle 0x60 (packLoop ((s.accept 0x60 (.enter .pack) []).clearAcc.packed [])) := by
  rw [packed_nil]
  exact command_ready h.1 h.2.1 h.2.2

/-! ### PACK's two failures of a byte -/

section fails
variable {s : State} {bytes : List Byte} {k : Nat} {rest : List Token} (hs : s.Ready) (hf : s.FailsAt k)
include hs hf

/-- What PACK has done when it comes to the token after the bytes. -/
theorem exec_pack_packs {ts : List Token} (hc : ∀ c ∈ bytes, s.codeLenOf c ≠ 0) (hq : s.inq = bytes.map .byte ++ ts)
    (hlt : (s.payloadBits bytes).length < 8 * (k + 1)) : exec .pack s = settle 0x60 (packLoop
      (((s.accept 0x60 (.enter .pack) []).clearAcc.readIn bytes.length ts).packed (s.payloadBits bytes))) := by
  rw [exec_pack_ready hs]
  refine congrArg (settle 0x60) (packLoop_packed (s := (s.accept 0x60 (.enter .pack) []).clearAcc) (bits := []) hs.2.2 bytes hc hq ?_)
  refine hf.1.mono ?_
  show (0 + (s.payloadBits bytes).length) / 8 ≤ k
  omega

/-- The eighth bit of a payload byte, in the middle of a code (R131). -/
theorem exec_pack_fails_bit {b : Byte} (hc : ∀ c ∈ bytes ++ [b], s.codeLenOf c ≠ 0) (hq : s.inq = (bytes ++ [b]).map .byte ++ rest)
    (hlt : (s.payloadBits bytes).length < 8 * (k + 1)) (hle : 8 * (k + 1) ≤ (s.payloadBits (bytes ++ [b])).length) :
    exec .pack s = .next { s.failedWith 0x60 .snkIo 0 with
      acc := BitVec.ofNat 8 (bitsValue (((s.payloadBits (bytes ++ [b])).drop (8 * k)).take 7)), accN := 7
      inq := rest, inCount := BitVec.ofNat 32 (bytes.length + 1), sink := s.sink.drop (k + 1)
      out := s.out ++ (packBytes (s.payloadBits (bytes ++ [b]))).take k, outCount := BitVec.ofNat 32 k } := by
  have hcode : s.payloadBits (bytes ++ [b]) = s.payloadBits bytes ++ s.tableCode b := by simp [State.payloadBits]
  have hloop := packLoop_packed_fails (s := (s.accept 0x60 (.enter .pack) []).clearAcc.readIn bytes.length (.byte b :: rest)) hs.2.2
    (hc b (by simp)) rfl hf hlt (hcode ▸ hle)
  rw [exec_pack_packs hs hf (fun c h => hc c (List.mem_append_left _ h)) (by simpa using hq) hlt, hloop]
  refine (settle_raised_free _ _ _ (by exact hs.2.2)).trans (congrArg Host.Outcome.next ?_)
  obtain ⟨hlen, hfull, hrest⟩ := fullBytes_take (show 8 * k + 7 ≤ (s.payloadBits (bytes ++ [b])).length by omega)
  have hleft := raiseError_packed s ((s.payloadBits (bytes ++ [b])).take (8 * k + 7)) (bytes.length + 1) rest
  rw [hlen, hfull, hrest, show (8 * k + 7) / 8 = k by omega, show (8 * k + 7) % 8 = 7 by omega, ← State.readIn_readIn _ _ _ (.byte b :: rest),
    hcode] at hleft
  rw [hcode]
  exact hleft

/-- The partial byte of FlushPartial (R132). -/
theorem exec_pack_fails_flush (hc : ∀ c ∈ bytes, s.codeLenOf c ≠ 0) (hq : s.inq = passOf bytes rest)
    (hk : k = (s.payloadBits bytes).length / 8) (hn : (s.payloadBits bytes).length % 8 ≠ 0) :
    exec .pack s = .next { s.failedWith 0x60 .snkIo 0 with
      acc := BitVec.ofNat 8 (bitsValue ((s.payloadBits bytes).drop (8 * k))), accN := BitVec.ofNat 3 ((s.payloadBits bytes).length % 8)
      inq := rest, inCount := BitVec.ofNat 32 bytes.length, sink := s.sink.drop (k + 1)
      out := s.out ++ (packBytes (s.payloadBits bytes)).take k, outCount := BitVec.ofNat 32 k } := by
  subst hk
  have hloop := packLoop_flush_fails (s := (s.accept 0x60 (.enter .pack) []).clearAcc.readIn bytes.length (.endOfPass :: rest)) hs.2.2 rfl hf.2 hn
  rw [exec_pack_packs hs hf hc hq (by omega), hloop]
  exact (settle_raised_free _ _ _ (by exact hs.2.2)).trans (congrArg Host.Outcome.next (raiseError_packed s (s.payloadBits bytes) bytes.length rest))

end fails

end Sys2Proof.Machine
end

section
/-! PROOFS. UNPACK's walk of the tree (spec/47_bit_unpacker.md R134, R135): what it has emitted and where CUR stands after some payload bits, and
how it ends when the sink fails a byte. -/

namespace Sys2Proof.Machine

open Sys2Proof

/-! ### The walk in a tree, bit by bit -/

/-- Where the walk stands: the subtree at CUR, the bits since the last leaf, and whether CUR is below the root. -/
structure WalkPoint where
  sub : CodeTree
  path : List Bool
  mid : Bool

/-- The walk stands at the root. -/
def WalkPoint.start (tree : CodeTree) : WalkPoint := ⟨tree, [], false⟩

/-- One bit of the walk: the byte it emits, if any, and the point after it. -/
def WalkPoint.step (tree : CodeTree) (w : WalkPoint) (x : Bool) : List Byte × WalkPoint :=
  match w.sub with
  | .leaf _ => ([], w)
  | .node l r =>
    match if x then r else l with
    | .leaf v => ([v], .start tree)
    | .node l' r' => ([], ⟨.node l' r', w.path ++ [x], true⟩)

/-- The walk over a row of bits. -/
def WalkPoint.walk (tree : CodeTree) : WalkPoint → List Bool → List Byte × WalkPoint
  | w, [] => ([], w)
  | w, x :: bits => ((w.step tree x).1 ++ ((w.step tree x).2.walk tree bits).1, ((w.step tree x).2.walk tree bits).2)

theorem WalkPoint.walk_append (tree : CodeTree) (w : WalkPoint) (xs ys : List Bool) : w.walk tree (xs ++ ys) =
    ((w.walk tree xs).1 ++ ((w.walk tree xs).2.walk tree ys).1, ((w.walk tree xs).2.walk tree ys).2) := by
  induction xs generalizing w with
  | nil => rfl
  | cons x xs ih => simp [WalkPoint.walk, ih]

section step
variable (tree : CodeTree) {w : WalkPoint} {l r : CodeTree} (x : Bool)

theorem WalkPoint.step_leaf {v : Byte} (hw : w.sub = .node l r) (hd : (if x then r else l) = .leaf v) :
    w.step tree x = ([v], .start tree) := by rw [WalkPoint.step, hw]; simp only [hd]

theorem WalkPoint.step_node {l' r' : CodeTree} (hw : w.sub = .node l r) (hd : (if x then r else l) = .node l' r') :
    w.step tree x = ([], ⟨.node l' r', w.path ++ [x], true⟩) := by rw [WalkPoint.step, hw]; simp only [hd]

end step

theorem WalkPoint.walk_of_leaf (tree : CodeTree) {w : WalkPoint} {v : Byte} (hw : w.sub = .leaf v) (bits : List Bool) :
    w.walk tree bits = ([], w) := by
  have hstep : ∀ x, w.step tree x = ([], w) := fun x => by rw [WalkPoint.step, hw]
  induction bits with
  | nil => rfl
  | cons x bits ih => simp [WalkPoint.walk, hstep, ih]

theorem WalkPoint.length_step_le (tree : CodeTree) (w : WalkPoint) (x : Bool) : (w.step tree x).1.length ≤ 1 := by
  unfold WalkPoint.step
  split
  · simp
  · split <;> simp

/-- The walk is that of `decodeBits` and `pendingPath`. -/
theorem WalkPoint.walk_eq (tree : CodeTree) (w : WalkPoint) (bits : List Bool) :
    decodeBits tree w.sub w.mid bits = ((w.walk tree bits).1, (w.walk tree bits).2.mid) ∧
      pendingPath tree w.sub w.path bits = (w.walk tree bits).2.path := by
  induction bits generalizing w with
  | nil => cases hw : w.sub <;> exact ⟨rfl, rfl⟩
  | cons x bits ih =>
    cases hw : w.sub with
    | leaf v =>
      rw [WalkPoint.walk_of_leaf tree hw]
      exact ⟨rfl, rfl⟩
    | node l r =>
      cases hd : if x then r else l with
      | leaf v =>
        obtain ⟨hdecode, hpending⟩ := ih (.start tree)
        rw [WalkPoint.walk, WalkPoint.step_leaf tree x hw hd]
        simp only [decodeBits, pendingPath, hd]
        rw [show decodeBits tree tree false bits = _ from hdecode]
        exact ⟨rfl, hpending⟩
      | node l' r' =>
        obtain ⟨hdecode, hpending⟩ := ih ⟨.node l' r', w.path ++ [x], true⟩
        rw [WalkPoint.walk, WalkPoint.step_node tree x hw hd]
        simp only [decodeBits, pendingPath, hd]
        exact ⟨hdecode, hpending⟩

/-- What UNPACK makes of a payload is what the walk from the root emits. -/
theorem CodeTree.unpacked_eq_walk (tree : CodeTree) (payload : List Byte) :
    (tree.unpacked payload).1 = ((WalkPoint.start tree).walk tree (bitsOfBytes payload)).1 :=
  congrArg Prod.fst ((WalkPoint.start tree).walk_eq tree (bitsOfBytes payload)).1

/-! ### The walk in the node RAM -/

/-- CUR stands at w in the tree at ROOT. -/
structure State.WalksAt (s : State) (tree : CodeTree) (w : WalkPoint) : Prop where
  tree : s.HasTree tree
  internal : w.sub.isNode = true
  sub : s.Denotes w.sub s.cur
  cur : s.cur = s.nodeAt w.path

/-- s after the walk has emitted these bytes and come to this point. -/
def State.walked (s : State) (q : List Byte × WalkPoint) : State := { s.offered q.1 with cur := s.nodeAt q.2.path }

theorem State.WalksAt.exists_node {s : State} {tree : CodeTree} {w : WalkPoint} (h : s.WalksAt tree w) : ∃ l r, w.sub = .node l r := by
  obtain ⟨-, hnode, -, -⟩ := h
  cases hw : w.sub with
  | leaf v => rw [hw] at hnode; cases hnode
  | node l r => exact ⟨l, r, rfl⟩

theorem State.WalksAt.walked_nil {s : State} {tree : CodeTree} {w : WalkPoint} (h : s.WalksAt tree w) : s.walked ([], w) = s := by
  rw [State.walked, State.offered_nil, ← h.cur]

theorem State.walked_walked (s : State) (q r : List Byte × WalkPoint) : (s.walked q).walked r = s.walked (q.1 ++ r.1, r.2) :=
  congrArg (fun u : State => { u with cur := s.nodeAt r.2.path }) (s.offered_append q.1 r.1)

theorem walksAt_start {s : State} {tree : CodeTree} (h : s.HasTree tree) (hc : s.cur = s.root) : s.WalksAt tree (.start tree) :=
  ⟨h, h.1, hc ▸ h.2.2, hc⟩

theorem State.Accepts.walked {s : State} {q : List Byte × WalkPoint} {n : Nat} (h : s.Accepts (q.1.length + n)) : (s.walked q).Accepts n := h.offered

theorem State.FailsAt.walked {s : State} {q : List Byte × WalkPoint} {k : Nat} (h : s.FailsAt (q.1.length + k)) : (s.walked q).FailsAt k :=
  ⟨h.1.walked, h.offered.2⟩

theorem State.Accepts.readIn {s : State} {k : Nat} (h : s.Accepts k) (n : Nat) (ts : List Token) : (s.readIn n ts).Accepts k :=
  fun j hj => h j hj

theorem State.FailsAt.readIn {s : State} {k : Nat} (h : s.FailsAt k) (n : Nat) (ts : List Token) : (s.readIn n ts).FailsAt k :=
  ⟨h.1.readIn n ts, h.2⟩

theorem State.WalksAt.readIn {s : State} {tree : CodeTree} {w : WalkPoint} (h : s.WalksAt tree w) (n : Nat) (ts : List Token) :
    (s.readIn n ts).WalksAt tree w :=
  ⟨h.tree.congr rfl rfl, h.internal, State.Denotes.congr (s := s) (u := s.readIn n ts) rfl h.sub, h.cur⟩

theorem State.nodeAt_concat (s : State) (path : List Bool) (x : Bool) : s.nodeAt (path ++ [x]) = s.below (s.nodeAt path) x := by
  simp [State.nodeAt]

section bit
variable {s : State} {tree l r : CodeTree} {w : WalkPoint} (h : s.WalksAt tree w)
include h

/-- The child that a bit selects. -/
theorem State.WalksAt.child (hw : w.sub = .node l r) (x : Bool) : s.child (edge x) s.cur = .ok (s.nodeAt (w.path ++ [x])) ∧
    s.Denotes (if x then r else l) (s.nodeAt (w.path ++ [x])) := by
  obtain ⟨j, hj, -, hl, hr⟩ : s.Denotes (.node l r) s.cur := hw ▸ h.sub
  obtain ⟨hleft, hright⟩ := State.child_of_slot (s := s) hj
  rw [State.nodeAt_concat, ← h.cur, State.below, hj]
  cases x with
  | false => exact ⟨hleft, hl⟩
  | true => exact ⟨hright, hr⟩

/-- After a bit CUR stands at the next point. -/
theorem State.WalksAt.step (x : Bool) : (s.walked (w.step tree x)).WalksAt tree (w.step tree x).2 := by
  obtain ⟨l, r, hw⟩ := h.exists_node
  obtain ⟨-, hchild⟩ := h.child hw x
  cases hd : if x then r else l with
  | leaf v =>
    rw [WalkPoint.step_leaf tree x hw hd]
    exact walksAt_start (h.tree.congr rfl rfl) rfl
  | node l' r' =>
    rw [hd] at hchild
    rw [WalkPoint.step_node tree x hw hd]
    have hsub : (s.walked ([], ⟨.node l' r', w.path ++ [x], true⟩)).Denotes (.node l' r') (s.nodeAt (w.path ++ [x])) :=
      State.Denotes.congr (s := s) (u := s.walked _) rfl hchild
    exact ⟨h.tree.congr rfl rfl, rfl, hsub, rfl⟩

end bit

/-! ### The bits of a byte (R134) -/

/-- Bits n - 1 to 0 of b. -/
def lowBits (b : Byte) (n : Nat) : List Bool := (List.range n).reverse.map b.getLsbD

theorem lowBits_succ (b : Byte) (n : Nat) : lowBits b (n + 1) = b.getLsbD n :: lowBits b n := by simp [lowBits, List.range_succ]

theorem bitsOfBytes_cons (b : Byte) (bytes : List Byte) : bitsOfBytes (b :: bytes) = lowBits b 8 ++ bitsOfBytes bytes := rfl

theorem bitsOfBytes_concat (bytes : List Byte) (b : Byte) : bitsOfBytes (bytes ++ [b]) = bitsOfBytes bytes ++ lowBits b 8 := by
  simp [bitsOfBytes, lowBits]

section walkBits
variable {s : State} {tree : CodeTree} {w : WalkPoint} (hp : s.pace = none) (h : s.WalksAt tree w) (b : Byte) (n : Nat)
include hp h

/-- One WalkBit, when the sink accepts its byte, if it has one. -/
theorem walkBits_step (ha : s.Accepts (w.step tree (b.getLsbD n)).1.length) :
    walkBits b (n + 1) s = walkBits b n (s.walked (w.step tree (b.getLsbD n))) := by
  obtain ⟨l, r, hw⟩ := h.exists_node
  obtain ⟨hchild, hsub⟩ := h.child hw (b.getLsbD n)
  cases hd : if b.getLsbD n then r else l with
  | leaf v =>
    rw [hd] at hsub
    rw [WalkPoint.step_leaf tree _ hw hd] at ha ⊢
    rw [show s.nodeAt (w.path ++ [b.getLsbD n]) = leafSlot v from hsub] at hchild
    have hemit : State.emitLeaf { s with cur := leafSlot v } = .accepted (s.walked ([v], .start tree)) := by
      rw [State.emitLeaf, emit_of_answer_ok (s := { s with cur := leafSlot v }) hp _ (ha 0 Nat.one_pos), leafValue_leafSlot]
      rfl
    rw [walkBits, hchild]
    simp [hemit]
  | node l' r' =>
    rw [hd] at hsub
    obtain ⟨j, hj, -⟩ := hsub
    rw [walkBits, hchild, WalkPoint.step_node tree _ hw hd, State.walked, State.offered_nil]
    simp [isLeaf_of_slot hj]

/-- One WalkBit whose byte the sink fails. -/
theorem walkBits_step_fails {v : Byte} (hv : (w.step tree (b.getLsbD n)).1[0]? = some v) (hf : s.answerAt 0 = some .fail) :
    walkBits b (n + 1) s = .stop (.raised .snkIo 0 { s.refused with cur := leafSlot v }) := by
  obtain ⟨l, r, hw⟩ := h.exists_node
  obtain ⟨hchild, hsub⟩ := h.child hw (b.getLsbD n)
  cases hd : if b.getLsbD n then r else l with
  | leaf u =>
    rw [WalkPoint.step_leaf tree _ hw hd] at hv
    obtain rfl : u = v := Option.some.inj hv
    rw [hd] at hsub
    rw [show s.nodeAt (w.path ++ [b.getLsbD n]) = leafSlot u from hsub] at hchild
    have hemit : State.emitLeaf { s with cur := leafSlot u } = .failed { s.refused with cur := leafSlot u } := by
      rw [State.emitLeaf, emit_of_answer_fail (s := { s with cur := leafSlot u }) hp _ hf]
      rfl
    rw [walkBits, hchild]
    simp [hemit]
  | node l' r' =>
    rw [WalkPoint.step_node tree _ hw hd] at hv
    cases hv

end walkBits

theorem walkBits_walks {s : State} {tree : CodeTree} {w : WalkPoint} (hp : s.pace = none) (h : s.WalksAt tree w) (b : Byte) (n : Nat)
    (ha : s.Accepts (w.walk tree (lowBits b n)).1.length) :
    walkBits b n s = .more () (s.walked (w.walk tree (lowBits b n))) ∧
      (s.walked (w.walk tree (lowBits b n))).WalksAt tree (w.walk tree (lowBits b n)).2 := by
  induction n generalizing s w with
  | zero =>
    rw [show w.walk tree (lowBits b 0) = ([], w) from rfl, h.walked_nil]
    exact ⟨rfl, h⟩
  | succ n ih =>
    rw [lowBits_succ, WalkPoint.walk] at ha ⊢
    rw [List.length_append] at ha
    rw [← State.walked_walked, walkBits_step hp h b n (ha.mono (by omega))]
    exact ih hp (h.step _) ha.walked

/-- The byte after the first k that the walk emits is the one the sink fails: CUR stays at its leaf (R135). -/
theorem walkBits_fails {s : State} {tree : CodeTree} {w : WalkPoint} {k : Nat} {v : Byte} (hp : s.pace = none) (h : s.WalksAt tree w)
    (b : Byte) (n : Nat) (hf : s.FailsAt k) (hv : (w.walk tree (lowBits b n)).1[k]? = some v) : walkBits b n s =
      .stop (.raised .snkIo 0 { (s.offered ((w.walk tree (lowBits b n)).1.take k)).refused with cur := leafSlot v }) := by
  induction n generalizing s w k with
  | zero => cases hv
  | succ n ih =>
    rw [lowBits_succ, WalkPoint.walk] at hv ⊢
    have hlen := w.length_step_le tree (b.getLsbD n)
    by_cases hk : k < (w.step tree (b.getLsbD n)).1.length
    · obtain rfl : k = 0 := by omega
      rw [List.getElem?_append_left hk] at hv
      rw [walkBits_step_fails hp h b n hv hf.2, List.take_zero, State.offered_nil]
    · obtain ⟨m, rfl⟩ := Nat.exists_eq_add_of_le (not_lt.1 hk)
      rw [List.getElem?_append_right (by omega), Nat.add_sub_cancel_left] at hv
      rw [walkBits_step hp h b n (hf.1.mono (by omega)), ih (by exact hp) (h.step _) hf.walked hv, List.take_length_add_append,
        ← State.offered_append]
      rfl

/-! ### UNPACK's loop (R134) -/

section loop
variable {s : State} {tree : CodeTree} {w : WalkPoint} {ts : List Token} (hp : s.pace = none) (h : s.WalksAt tree w)
include hp h

theorem unpackLoop_byte {b : Byte} (hq : s.inq = .byte b :: ts) (ha : s.Accepts (w.walk tree (lowBits b 8)).1.length) :
    unpackLoop s = unpackLoop ((s.readIn 1 ts).walked (w.walk tree (lowBits b 8))) ∧
      ((s.readIn 1 ts).walked (w.walk tree (lowBits b 8))).WalksAt tree (w.walk tree (lowBits b 8)).2 := by
  obtain ⟨hbits, hat⟩ := walkBits_walks (s := s.readIn 1 ts) hp (h.readIn 1 ts) b 8 (ha.readIn 1 ts)
  refine ⟨?_, hat⟩
  rw [unpackLoop, hq, overTokens_byte_more (u := (s.readIn 1 ts).walked (w.walk tree (lowBits b 8))) hp hbits]
  rfl

/-- By induction over the bytes of the payload. -/
theorem unpackLoop_walks (payload : List Byte) (hq : s.inq = payload.map .byte ++ ts)
    (ha : s.Accepts (w.walk tree (bitsOfBytes payload)).1.length) :
    unpackLoop s = unpackLoop ((s.readIn payload.length ts).walked (w.walk tree (bitsOfBytes payload))) ∧
      ((s.readIn payload.length ts).walked (w.walk tree (bitsOfBytes payload))).WalksAt tree (w.walk tree (bitsOfBytes payload)).2 := by
  induction payload generalizing s w with
  | nil =>
    obtain rfl : s.inq = ts := hq
    rw [List.length_nil, s.readIn_zero, show w.walk tree (bitsOfBytes []) = ([], w) from rfl, h.walked_nil]
    exact ⟨rfl, h⟩
  | cons b payload ih =>
    rw [bitsOfBytes_cons, w.walk_append] at ha ⊢
    rw [List.length_append] at ha
    obtain ⟨hfirst, hat⟩ := unpackLoop_byte (ts := payload.map Token.byte ++ ts) hp h hq (ha.mono (by omega))
    have hrest := ih (by exact hp) hat rfl (ha.readIn 1 _).walked
    have hstate : (State.readIn ((s.readIn 1 (payload.map .byte ++ ts)).walked (w.walk tree (lowBits b 8))) payload.length ts).walked
        ((w.walk tree (lowBits b 8)).2.walk tree (bitsOfBytes payload)) = (s.readIn (b :: payload).length ts).walked
          ((w.walk tree (lowBits b 8)).1 ++ ((w.walk tree (lowBits b 8)).2.walk tree (bitsOfBytes payload)).1,
            ((w.walk tree (lowBits b 8)).2.walk tree (bitsOfBytes payload)).2) := by
      rw [← State.walked_walked, List.length_cons, Nat.add_comm, ← s.readIn_readIn 1 payload.length (payload.map .byte ++ ts) ts]
      rfl
    rw [hstate] at hrest
    rw [hfirst]
    exact hrest

/-- The sink fails a byte that the walk over b emits. -/
theorem unpackLoop_fails {k : Nat} {b v : Byte} (hq : s.inq = .byte b :: ts) (hf : s.FailsAt k)
    (hv : (w.walk tree (lowBits b 8)).1[k]? = some v) : unpackLoop s = .raised .snkIo 0
      { ((s.readIn 1 ts).offered ((w.walk tree (lowBits b 8)).1.take k)).refused with cur := leafSlot v } := by
  rw [unpackLoop, hq, overTokens_byte_stop hp (walkBits_fails (s := s.readIn 1 ts) hp (h.readIn 1 ts) b 8 (hf.readIn 1 ts) hv)]

end loop

/-! ### UNPACK's failure of a byte -/

theorem unpackBody_of_hasTree {s : State} {tree : CodeTree} (h : s.HasTree tree) : unpackBody s = unpackLoop { s with cur := s.root } :=
  if_neg h.root_ne_nil

/-- The sink fails a byte that the last payload byte makes. -/
theorem unpackBody_fails {s : State} {tree : CodeTree} {payload : List Byte} {b v : Byte} {k : Nat} {rest : List Token} (hp : s.pace = none)
    (h : s.HasTree tree) (hq : s.inq = (payload ++ [b]).map .byte ++ rest) (hf : s.FailsAt k) (hle : (tree.unpacked payload).1.length ≤ k)
    (hv : (tree.unpacked (payload ++ [b])).1[k]? = some v) : unpackBody s = .raised .snkIo 0
      { ((s.readIn (payload.length + 1) rest).offered ((tree.unpacked (payload ++ [b])).1.take k)).refused with cur := leafSlot v } := by
  obtain ⟨m, rfl⟩ := Nat.exists_eq_add_of_le hle
  have hunpacked : (tree.unpacked (payload ++ [b])).1 = (tree.unpacked payload).1 ++
      (((WalkPoint.start tree).walk tree (bitsOfBytes payload)).2.walk tree (lowBits b 8)).1 := by
    rw [tree.unpacked_eq_walk, tree.unpacked_eq_walk, bitsOfBytes_concat, WalkPoint.walk_append]
  rw [hunpacked, List.getElem?_append_right (by omega), Nat.add_sub_cancel_left] at hv
  rw [hunpacked, List.take_length_add_append, tree.unpacked_eq_walk]
  rw [tree.unpacked_eq_walk] at hf
  have hstart := walksAt_start (s := { s with cur := s.root }) (h.congr rfl rfl) rfl
  obtain ⟨hwalks, hat⟩ := unpackLoop_walks (ts := .byte b :: rest) (by exact hp) hstart payload (by simpa using hq) (hf.1.mono (by omega))
  have hfails := unpackLoop_fails (k := m) (by exact hp) hat rfl (hf.readIn _ _).walked hv
  rw [unpackBody_of_hasTree h, hwalks, hfails, ← State.offered_append, ← s.readIn_readIn payload.length 1 (.byte b :: rest) rest]
  rfl

theorem exec_unpack_ready {s : State} (h : s.Ready) : exec .unpack s = settle 0x70 (unpackBody (s.accept 0x70 (.enter .unpack) [])) :=
  command_ready h.1 h.2.1 h.2.2

theorem exec_unpack_fails {s : State} {tree : CodeTree} {payload : List Byte} {b v : Byte} {k : Nat} {rest : List Token} (hs : s.Ready)
    (h : s.HasTree tree) (hq : s.inq = (payload ++ [b]).map .byte ++ rest) (hf : s.FailsAt k) (hle : (tree.unpacked payload).1.length ≤ k)
    (hv : (tree.unpacked (payload ++ [b])).1[k]? = some v) : exec .unpack s = .next { s.failedWith 0x70 .snkIo 0 with
      cur := leafSlot v, inq := rest, inCount := BitVec.ofNat 32 (payload.length + 1), sink := s.sink.drop (k + 1)
      out := s.out ++ (tree.unpacked (payload ++ [b])).1.take k, outCount := BitVec.ofNat 32 k } := by
  have hlen : ((tree.unpacked (payload ++ [b])).1.take k).length = k := List.length_take_of_le (List.getElem?_eq_some_iff.1 hv).1.le
  rw [exec_unpack_ready hs, unpackBody_fails (s := s.accept 0x70 (.enter .unpack) []) hs.2.2 (h.congr rfl rfl) hq hf hle hv,
    settle_raised_free _ _ _ (by exact hs.2.2), refused_offered _ hlen]
  simp [State.raiseError, State.failedWith, State.readIn, State.accept]

end Sys2Proof.Machine
end

section
/-! PROOFS. The stages that emit nothing neither read nor write the output side of the block: OUT, OUT_COUNT and the sink's answers (spec/20_memory.md
R61; 10_state.md R38), nor DONE. They run in the same way whatever these are. -/

namespace Sys2Proof.Machine

open Sys2Proof

/-! ### The output side -/

/-- OUT, OUT_COUNT and the sink's answers to come; and DONE, which no body of a command but SOFT_RESET's writes. -/
structure OutSide where
  sink : List SinkAnswer
  sinkRest : Option SinkAnswer
  out : List Byte
  outCount : Word
  done : Bool

def State.outSide (s : State) : OutSide := ⟨s.sink, s.sinkRest, s.out, s.outCount, s.done⟩

/-- s with another output side, and not held. -/
def State.withOut (s : State) (o : OutSide) : State :=
  { s with sink := o.sink, sinkRest := o.sinkRest, out := o.out, outCount := o.outCount, done := o.done, pace := none }

theorem State.withOut_outSide {s : State} (hp : s.pace = none) : s.withOut s.outSide = s := by rw [State.withOut, ← hp]; rfl

def Run.withOut (r : Run) (o : OutSide) : Run :=
  match r with
  | .ret s => .ret (s.withOut o)
  | .raised e info s => .raised e info (s.withOut o)
  | .wait pos todo s => .wait pos todo (s.withOut o)
  | .reset s => .reset (s.withOut o)
  | .stuck f => .stuck f

def LoopStep.withOut {σ : Type} (x : LoopStep σ) (o : OutSide) : LoopStep σ :=
  match x with
  | .more y s => .more y (s.withOut o)
  | .stop r => .stop (r.withOut o)

/-- A body that neither reads nor writes the output side. -/
structure Quiet (body : State → Run) : Prop where
  withOut : ∀ s o, s.pace = none → body (s.withOut o) = (body s).withOut o
  noReset : ∀ s, (body s).NoReset

/-- A quiet body leaves the output side. -/
theorem Quiet.keeps {body : State → Run} (h : Quiet body) {s : State} (hp : s.pace = none) :
    (body s).RunsTo fun t => t.outSide = s.outSide ∧ t.pace = none := by
  have hown := h.withOut s s.outSide hp
  have hreset := h.noReset s
  rw [State.withOut_outSide hp] at hown
  generalize body s = r at hown hreset ⊢
  rw [hown]
  cases r with
  | reset t => exact hreset
  | stuck f => trivial
  | _ => exact ⟨rfl, rfl⟩

/-- An iteration of a loop that does neither. -/
def QuietStep {σ : Type} (step : State → LoopStep σ) : Prop := ∀ s o, s.pace = none → step (s.withOut o) = (step s).withOut o

theorem QuietStep.pace {σ : Type} {step : State → LoopStep σ} (h : QuietStep step) {s t : State} {y : σ} (hp : s.pace = none)
    (ht : step s = .more y t) : t.pace = none := by
  have hown := h s s.outSide hp
  rw [State.withOut_outSide hp, ht] at hown
  injection hown with _ hown
  rw [hown]
  rfl

theorem consume_withOut (s : State) (o : OutSide) (tok : Token) (ts : List Token) :
    (s.withOut o).consume tok ts = (s.consume tok ts).withOut o := by cases tok <;> rfl

theorem overTokens_withOut {σ : Type} {pos : σ → Pos} {body : σ → Token → State → LoopStep σ} (hbody : ∀ x tok, QuietStep (body x tok))
    (ts : List Token) (x : σ) {s : State} (o : OutSide) (hp : s.pace = none) :
    overTokens pos body ts x (s.withOut o) = (overTokens pos body ts x s).withOut o := by
  induction ts generalizing x s with
  | nil => rfl
  | cons tok ts ih =>
    have hconsume : (s.consume tok ts).pace = none := by cases tok <;> simp [State.consume, State.tick, hp]
    have hstep := hbody x tok (s.consume tok ts) o hconsume
    rw [← consume_withOut] at hstep
    cases hb : body x tok (s.consume tok ts) with
    | more y t =>
      rw [hb] at hstep
      rw [overTokens_more (State.held_none hp) hb, overTokens_more (State.held_none rfl) hstep, ih y ((hbody x tok).pace hconsume hb)]
    | stop r =>
      rw [hb] at hstep
      rw [overTokens_stop (State.held_none hp) hb, overTokens_stop (State.held_none rfl) hstep]

theorem quiet_ofExcept {f : State → Except Fault State} (h : ∀ s o, f (s.withOut o) = (f s).map (·.withOut o)) :
    Quiet fun s => .ofExcept (f s) where
  withOut s o _ := by
    show Run.ofExcept (f (s.withOut o)) = _
    rw [h]
    cases f s <;> rfl
  noReset s := by cases h : f s <;> simp [Run.ofExcept, Run.RunsTo]

/-! ### FREQ_CLEAR and FREQ_COUNT (R102, R103) -/

theorem quiet_freqClear : Quiet freqClearBody := ⟨fun _ _ _ => rfl, fun _ => trivial⟩

theorem quiet_freqCount : Quiet freqCountBody where
  withOut s o hp := by
    refine overTokens_withOut (fun _ tok u o _ => ?_) s.inq () o hp
    cases tok with
    | fail => rfl
    | endOfPass => rfl
    | byte b =>
      show (if u.total = Config.totalMax then _ else _) = LoopStep.withOut (if u.total = Config.totalMax then _ else _) o
      split <;> rfl
  noReset s := (freqCountBody_keepsSink s).imp fun _ _ => trivial

/-! ### The heap (R107 to R111) -/

section heap
variable (s : State) (o : OutSide)

theorem heapAt_withOut (k : Nat) : (s.withOut o).heapAt k = s.heapAt k := rfl

theorem setHeap_withOut (i : Nat) (n : Idx) : (s.withOut o).setHeap i n = (s.setHeap i n).withOut o := by
  unfold State.setHeap
  split <;> rfl

theorem swapHeap_withOut (i j : Nat) : (s.withOut o).swapHeap i j = (s.swapHeap i j).withOut o := by
  simp only [State.swapHeap, setHeap_withOut, heapAt_withOut]

theorem siftDownLoop_withOut (turns i : Nat) : siftDownLoop turns i (s.withOut o) = (siftDownLoop turns i s).withOut o := by
  induction turns generalizing i s with
  | zero => rfl
  | succ n ih =>
    have hleast : (s.withOut o).leastChild i = s.leastChild i := rfl
    simp only [siftDownLoop, hleast, swapHeap_withOut, ih]
    split <;> rfl

theorem siftUpLoop_withOut (turns i : Nat) : siftUpLoop turns i (s.withOut o) = (siftUpLoop turns i s).withOut o := by
  induction turns generalizing i s with
  | zero => rfl
  | succ n ih =>
    have hless : ∀ a b, (s.withOut o).less a b = s.less a b := fun _ _ => rfl
    simp only [siftUpLoop, heapAt_withOut, hless, swapHeap_withOut, ih]
    split
    · rfl
    · split <;> rfl

theorem dropMin_withOut : (s.withOut o).dropMin = s.dropMin.withOut o := by
  have hlive : (s.withOut o).live = s.live := rfl
  have hset : ∀ n, (s.withOut o).setLive n = (s.setLive n).withOut o := fun _ => rfl
  simp only [State.dropMin, hlive, hset, heapAt_withOut]
  split <;> simp only [setHeap_withOut]

theorem extractMin_withOut : (s.withOut o).extractMin = (s.extractMin.1, s.extractMin.2.withOut o) := by
  refine Prod.ext rfl ?_
  rw [State.extractMin_snd, dropMin_withOut, State.extractMin_snd]
  exact siftDownLoop_withOut _ o _ 0

theorem appendEntry_withOut (n : Idx) : (s.withOut o).appendEntry n = (s.appendEntry n).withOut o :=
  congrArg (·.setLive (s.live + 1)) (setHeap_withOut s o s.live n)

theorem insert_withOut (n : Idx) : (s.withOut o).insert n = (s.insert n).withOut o :=
  (congrArg (siftUpLoop s.live s.live) (appendEntry_withOut s o n)).trans (siftUpLoop_withOut _ o _ _)

theorem heapify_withOut (n : Nat) : heapify n (s.withOut o) = (heapify n s).withOut o := by
  induction n generalizing s with
  | zero => rfl
  | succ n ih =>
    have hsift : (s.withOut o).siftDown n = (s.siftDown n).withOut o := siftDownLoop_withOut s o s.live n
    rw [heapify, hsift, ih, heapify]

theorem appendLeaves_withOut (vs : List Byte) : vs.foldl State.appendLeaf (s.withOut o) = (vs.foldl State.appendLeaf s).withOut o := by
  induction vs generalizing s with
  | nil => rfl
  | cons v vs ih =>
    have hfirst : (s.withOut o).appendLeaf v = (s.appendLeaf v).withOut o := appendEntry_withOut s o (leafSlot v)
    rw [List.foldl_cons, hfirst, ih, List.foldl_cons]

theorem buildHeap_withOut : (s.withOut o).buildHeap = s.buildHeap.withOut o := by
  have hloaded : (s.withOut o).usedSymbols.foldl State.appendLeaf (s.withOut o).discardTree =
      (s.usedSymbols.foldl State.appendLeaf s.discardTree).withOut o := appendLeaves_withOut s.discardTree o s.usedSymbols
  simp only [State.buildHeap, hloaded]
  exact heapify_withOut _ o _

theorem quiet_heapBuild : Quiet heapBuildBody := ⟨fun s o _ => congrArg Run.ret (buildHeap_withOut s o), fun _ => trivial⟩

/-! ### The tree builder (R113 to R117) -/

theorem mergedWeight_withOut (a b : Idx) : (s.withOut o).mergedWeight a b = ((s.mergedWeight a b).1, (s.mergedWeight a b).2.withOut o) := by
  by_cases h : (s.weight a).toNat + (s.weight b).toNat < 2 ^ 32
  · rw [State.mergedWeight_fits h]
    exact State.mergedWeight_fits (s := s.withOut o) h
  · rw [State.mergedWeight_free h]
    exact State.mergedWeight_free (s := s.withOut o) h

theorem alloc_withOut (nd : Node) : (s.withOut o).alloc nd = (s.alloc nd).map (·.withOut o) := by
  simp only [State.alloc, State.setNode]
  show (match (match slot? s.nextInt with | some j => _ | none => _ : Except Fault State) with | .ok s' => _ | .error f => _) = _
  cases slot? s.nextInt <;> rfl

theorem merge_withOut : (s.withOut o).merge = s.merge.map (·.withOut o) := by
  have hnext : ∀ u : State, (u.withOut o).nextInt = u.nextInt := fun _ => rfl
  simp only [State.merge, extractMin_withOut, mergedWeight_withOut, alloc_withOut, hnext]
  cases State.alloc _ _ with
  | ok t => exact congrArg Except.ok (insert_withOut t o _)
  | error f => rfl

theorem mergeAll_withOut (turns : Nat) : mergeAll turns (s.withOut o) = (mergeAll turns s).map (·.withOut o) := by
  induction turns generalizing s with
  | zero => rfl
  | succ n ih =>
    have hlive : (s.withOut o).live = s.live := rfl
    simp only [mergeAll, hlive, merge_withOut]
    split
    · cases s.merge with
      | ok t => exact ih t
      | error f => rfl
    · rfl

theorem synthesize_withOut (v : Idx) : (s.withOut o).synthesize v = (s.synthesize v).map (·.withOut o) := by
  have hweight : (s.withOut o).weight v = s.weight v := rfl
  have hnext : (s.withOut o).nextInt = s.nextInt := rfl
  simp only [State.synthesize, hweight, hnext, alloc_withOut]
  cases s.alloc ⟨true, v, v, s.weight v⟩ with
  | ok t => exact congrArg (fun u : State => Except.ok { u with root := s.nextInt }) (setHeap_withOut t o 0 s.nextInt)
  | error f => rfl

theorem finalizeTree_withOut : (s.withOut o).finalizeTree = s.finalizeTree.map (·.withOut o) := by
  have hlive : (s.withOut o).live = s.live := rfl
  simp only [State.finalizeTree, hlive, heapAt_withOut, synthesize_withOut]
  split
  · rfl
  · split <;> rfl

theorem treeBuild_withOut : (s.withOut o).treeBuild = s.treeBuild.map (·.withOut o) := by
  have husable : (s.withOut o).heapUsable = s.heapUsable := rfl
  have hlive : (s.withOut o).live = s.live := rfl
  simp only [State.treeBuild, husable, hlive, mergeAll_withOut]
  split
  · cases mergeAll s.live s with
    | ok t => exact finalizeTree_withOut t o
    | error f => rfl
  · rfl

/-! ### The traversal stack and CODES_DERIVE (R37, R119) -/

theorem child_withOut (side : Side) (n : Idx) : (s.withOut o).child side n = s.child side n := rfl

theorem push_withOut (e : StackEntry) : (s.withOut o).push e = (s.push e).map (·.withOut o) := by
  show (if s.stack.length < Config.stackDepth then _ else _) = Except.map _ (if s.stack.length < Config.stackDepth then _ else _)
  split <;> rfl

theorem deriveVisit_withOut (e : StackEntry) : (s.withOut o).deriveVisit e = (s.deriveVisit e).map (·.withOut o) := by
  have hlen : ∀ v, (s.withOut o).codeLenOf v = s.codeLenOf v := fun _ => rfl
  simp only [State.deriveVisit, hlen, child_withOut, push_withOut]
  split
  · split <;> rfl
  · split
    · split
      · rfl
      · cases s.push _ with
        | ok t => exact push_withOut t o _
        | error f => rfl
    · rfl
    · rfl

theorem deriveLoop_withOut (visits : Nat) : deriveLoop visits (s.withOut o) = (deriveLoop visits s).map (·.withOut o) := by
  have hstack : ∀ s : State, (s.withOut o).stack = s.stack := fun _ => rfl
  induction visits generalizing s with
  | zero =>
    unfold deriveLoop
    cases hs : s.stack <;> simp only [hstack, hs] <;> rfl
  | succ n ih =>
    unfold deriveLoop
    cases hs : s.stack with
    | nil =>
      simp only [hstack, hs]
      rfl
    | cons e rest =>
      have hvisit := deriveVisit_withOut { s with stack := rest } o e
      have hpop : ({ s.withOut o with stack := rest } : State) = State.withOut { s with stack := rest } o := rfl
      simp only [hstack, hs, hpop, hvisit]
      cases State.deriveVisit { s with stack := rest } e with
      | ok t => exact ih t
      | error f => rfl

theorem deriveCodes_withOut : (s.withOut o).deriveCodes = s.deriveCodes.map (·.withOut o) := by
  by_cases h : s.root = Config.nil
  · rw [State.deriveCodes_nil h]
    exact State.deriveCodes_nil (s := s.withOut o) h
  · rw [State.deriveCodes_of_ne_nil h, ← deriveLoop_withOut]
    exact State.deriveCodes_of_ne_nil (s := s.withOut o) h

end heap

theorem quiet_treeBuild : Quiet treeBuildBody := quiet_ofExcept treeBuild_withOut

theorem quiet_codesDerive : Quiet codesDeriveBody := quiet_ofExcept deriveCodes_withOut

/-! ### TREE_DESERIALIZE (R124, R125) -/

section parse
variable (s : State) (o : OutSide)

theorem setChild_withOut (side : Side) (n c : Idx) : (s.withOut o).setChild side n c = (s.setChild side n c).map (·.withOut o) := by
  unfold State.setChild
  split
  · cases side <;> rfl
  · rfl

theorem attach_withOut (n : Idx) : (s.withOut o).attach n = (s.attach n).map (·.withOut o) := by
  have hstack : (s.withOut o).stack = s.stack := rfl
  simp only [State.attach, hstack]
  split
  next => rfl
  next e rest _ =>
    split
    next => exact setChild_withOut { s with stack := { e with side := .right } :: rest } o .left e.node n
    next => exact setChild_withOut { s with stack := rest } o .right e.node n

theorem pace_attach {s t : State} {n : Idx} (h : s.attach n = .ok t) (hp : s.pace = none) : t.pace = none := by
  obtain ⟨x, j, -, -, ht, -⟩ := attach_ok h
  exact (congrArg State.pace ht :).trans hp

theorem quiet_parseEnd (r n : Idx) : QuietStep (parseEnd r n) := fun s o hp => by
  have hstack : (s.withOut o).stack = s.stack := rfl
  simp only [parseEnd, hstack, push_withOut]
  split
  · split
    · rw [finishHeader, finishHeader, State.held_none hp, State.held_none rfl]
      rfl
    · rfl
  · cases s.push { node := n, side := .left } <;> rfl

theorem quiet_parseNode (p : ParsePoint) (n : Idx) : QuietStep (parseNode p n) := fun s o hp => by
  have hattached : ∀ r, QuietStep fun u => match u.attach n with
      | .ok u' => parseEnd r n u'
      | .error f => LoopStep.stop (σ := ParsePoint) (.stuck f) := fun r u o hp => by
    simp only [attach_withOut]
    cases hu : u.attach n with
    | ok v => exact quiet_parseEnd r n v o (pace_attach hu hp)
    | error f => rfl
  cases p with
  | first => exact quiet_parseEnd n n s o hp
  | tag r => exact hattached r s o hp
  | value r => exact hattached r s o hp

theorem quiet_parseInternal (p : ParsePoint) : QuietStep (parseInternal p) := fun s o hp => by
  have hnext : (s.withOut o).nextInt = s.nextInt := rfl
  simp only [parseInternal, hnext, alloc_withOut]
  split
  · rfl
  · cases hu : s.alloc ⟨true, Config.nil, Config.nil, 0⟩ with
    | ok u =>
      have hup : u.pace = none := by
        obtain ⟨j, -, rfl⟩ := State.alloc_ok.1 hu
        exact hp
      exact quiet_parseNode p s.nextInt u o hup
    | error f => rfl

theorem quiet_parseTag (p : ParsePoint) (tag : Byte) : QuietStep (parseTag p tag) := fun s o hp => by
  unfold parseTag
  split
  · exact quiet_parseInternal p s o hp
  · split
    · cases p <;> rfl
    · rfl

theorem quiet_parseToken (p : ParsePoint) (tok : Token) : QuietStep (parseToken p tok) := fun s o hp => by
  cases tok with
  | fail => rfl
  | endOfPass => cases p <;> rfl
  | byte b =>
    cases p with
    | first => exact quiet_parseTag .first b s o hp
    | tag r => exact quiet_parseTag (.tag r) b s o hp
    | value r => exact quiet_parseNode (.value r) (leafSlot b) s o hp

end parse

theorem quiet_treeDeserialize : Quiet treeDeserializeBody where
  withOut s o hp := overTokens_withOut quiet_parseToken s.inq .first o (s := { s.discardTree with stack := [] }) hp
  noReset s := (treeDeserializeBody_keepsSink s).imp fun _ _ => trivial

/-! ### Stages one after another (R97) -/

theorem Quiet.andThen {body : State → Run} {c : Stage} (h : Quiet body) (hc : Quiet (stageBody c)) : Quiet fun s => (body s).andThen c where
  withOut s o hp := by
    have hkeeps := h.keeps hp
    show (body (s.withOut o)).andThen c = ((body s).andThen c).withOut o
    rw [h.withOut s o hp]
    cases hr : body s with
    | ret t =>
      rw [hr] at hkeeps
      rw [Run.andThen_free hkeeps.2, ← hc.withOut t o hkeeps.2]
      exact Run.andThen_free rfl c
    | _ => rfl
  noReset s := by
    have hnone := h.noReset s
    show ((body s).andThen c).NoReset
    cases hr : body s with
    | ret t =>
      rw [Run.andThen_ret]
      split
      · trivial
      · exact hc.noReset _
    | reset t => rw [hr] at hnone; exact hnone
    | _ => trivial

theorem Quiet.chain {body : State → Run} (h : Quiet body) (todo : List Stage) (hc : ∀ c ∈ todo, Quiet (stageBody c)) :
    Quiet fun s => (body s).chain todo := by
  induction todo generalizing body with
  | nil => exact h
  | cons c todo ih => exact ih (h.andThen (hc c List.mem_cons_self)) fun d hd => hc d (List.mem_cons_of_mem _ hd)

end Sys2Proof.Machine
end

section
/-! PROOFS. A run whose sink fails an offer, beside the same run with a sink that accepts every offer (spec/60_exceptions.md R146, R150, R152): the two
are the same up to the failed byte. -/

namespace Sys2Proof.Machine

open Sys2Proof

/-! ### Offers since a state -/

/-- Since s the sink has accepted n bytes. -/
def State.Sent (s : State) (n : Nat) (t : State) : Prop :=
  ∃ bytes, bytes.length = n ∧ t.outSide = (s.offered bytes).outSide ∧ t.pace = none

/-- Since s the sink has accepted n bytes and failed the one after them. -/
def State.SentThenFailed (s : State) (n : Nat) (t : State) : Prop :=
  ∃ bytes, bytes.length = n ∧ t.outSide = (s.offered bytes).refused.outSide ∧ t.pace = none

section sent
variable {s t u : State} {m n k : Nat}

theorem sent_zero (ht : t.outSide = s.outSide) (hp : t.pace = none) : s.Sent 0 t := ⟨[], rfl, by rw [ht, State.offered_nil], hp⟩

theorem outSide_offered_congr (h : t.outSide = s.outSide) (bytes : List Byte) : (t.offered bytes).outSide = (s.offered bytes).outSide := by
  obtain ⟨h1, h2, h3, h4, h5⟩ : t.sink = s.sink ∧ t.sinkRest = s.sinkRest ∧ t.out = s.out ∧ t.outCount = s.outCount ∧ t.done = s.done := by
    simpa [State.outSide] using h
  simp [State.outSide, State.offered, h1, h2, h3, h4, h5]

theorem outSide_refused_congr (h : t.outSide = s.outSide) : t.refused.outSide = s.refused.outSide :=
  congrArg (fun o : OutSide => { o with sink := o.sink.drop 1 }) h

theorem State.Sent.trans (h : s.Sent m t) (k : t.Sent n u) : s.Sent (m + n) u := by
  obtain ⟨xs, rfl, ht, -⟩ := h
  obtain ⟨ys, rfl, hu, hp⟩ := k
  exact ⟨xs ++ ys, List.length_append, by rw [hu, outSide_offered_congr ht, State.offered_append], hp⟩

theorem State.Sent.thenFailed (h : s.Sent m t) (k : t.SentThenFailed n u) : s.SentThenFailed (m + n) u := by
  obtain ⟨xs, rfl, ht, -⟩ := h
  obtain ⟨ys, rfl, hu, hp⟩ := k
  exact ⟨xs ++ ys, List.length_append, by rw [hu, outSide_refused_congr (outSide_offered_congr ht ys), State.offered_append], hp⟩

theorem State.Sent.length_out (h : s.Sent n t) : t.out.length = s.out.length + n := by
  obtain ⟨bytes, rfl, ht, -⟩ := h
  have hout : t.out = s.out ++ bytes := (congrArg OutSide.out ht :)
  rw [hout, List.length_append]

theorem State.Sent.pace (h : s.Sent n t) : t.pace = none := by
  obtain ⟨-, -, -, hp⟩ := h
  exact hp

/-- The answers after those. -/
theorem State.Sent.failsAt (h : s.Sent n t) (hf : s.FailsAt (n + k)) : t.FailsAt k := by
  obtain ⟨bytes, rfl, ht, -⟩ := h
  have hanswer : t.answerAt = (s.offered bytes).answerAt := congrArg (fun (o : OutSide) j => o.sink[j]?.or o.sinkRest) ht
  have hafter := hf.offered
  rwa [State.FailsAt, State.Accepts, ← hanswer] at hafter

/-- With n bytes sent, k - n are left before the failing one. -/
theorem State.Sent.left (h : s.Sent n t) (hn : n ≤ k) (hf : s.FailsAt k) : ∃ m, k = n + m ∧ t.FailsAt m := by
  obtain ⟨m, rfl⟩ := Nat.exists_eq_add_of_le hn
  exact ⟨m, rfl, h.failsAt hf⟩

end sent

theorem accepting_answers (s : State) (k : Nat) : s.accepting.answerAt k = some .ok := by simp [State.answerAt, State.accepting]

section offer
variable {s : State} (hp : s.pace = none)
include hp

theorem emit_accepting (b : Byte) : s.accepting.emit b = .accepted (s.offered [b]).accepting :=
  emit_of_answer_ok (s := s.accepting) hp b (accepting_answers s 0)

theorem sent_offered (b : Byte) : s.Sent 1 (s.offered [b]) := ⟨[b], rfl, rfl, hp⟩

theorem sentThenFailed_refused : s.SentThenFailed 0 s.refused := ⟨[], rfl, by rw [State.offered_nil], hp⟩

end offer

/-! ### The two runs -/

/-- An offer of a run from s whose sink fails the byte after the next k, beside the same offer to a sink that accepts: both are accepted, or the
failure comes now. L holds of the failed byte and the state it leaves, J of the states in which the runs go on. -/
inductive Emitted.Mirrors (s : State) (k : Nat) (L : Byte → State → Prop) (J : State → Prop) : Emitted → Emitted → Prop
  | accepted {n : Nat} {t : State} : n ≤ k → s.Sent n t → J t → Mirrors s k L J (.accepted t) (.accepted t.accepting)
  | failed {v : Byte} {f u : State} : s.SentThenFailed k f → L v f → u.out = f.out ++ [v] → Mirrors s k L J (.failed f) (.accepted u)

/-- A body from s beside the same body with a sink that accepts: the other emits no byte that the sink of s would fail, or the failure comes and
the other emits the failed byte after those before it. -/
inductive Run.Mirrors (s : State) (k : Nat) (L : Byte → State → Prop) : Run → Run → Prop
  | spared {r q : Run} : q.RunsTo (fun u => u.out.length ≤ s.out.length + k) → Mirrors s k L r q
  | failed {v : Byte} {f : State} {q : Run} : s.SentThenFailed k f → L v f → q.RunsTo (fun u => f.out ++ [v] <+: u.out) →
      Mirrors s k L (.raised .snkIo 0 f) q

/-- The same of one iteration of a loop. -/
inductive LoopStep.Mirrors {σ : Type} (s : State) (k : Nat) (L : Byte → State → Prop) (J : State → Prop) : LoopStep σ → LoopStep σ → Prop
  | more {n : Nat} {y : σ} {t : State} : n ≤ k → s.Sent n t → J t → Mirrors s k L J (.more y t) (.more y t.accepting)
  | stop {r q : Run} : r.Mirrors s k L q → Mirrors s k L J (.stop r) (.stop q)
  | failed {v : Byte} {f : State} {x : LoopStep σ} : s.SentThenFailed k f → L v f → x.RunsTo (fun u => f.out ++ [v] <+: u.out) →
      Mirrors s k L J (.stop (.raised .snkIo 0 f)) x

section mirrors
variable {s t : State} {n k : Nat} {L : Byte → State → Prop} {J : State → Prop}

theorem Run.Mirrors.after {r q : Run} (h : r.Mirrors t k L q) (ht : s.Sent n t) : r.Mirrors s (n + k) L q := by
  cases h with
  | spared hq => exact .spared (hq.imp fun u hu => by rw [ht.length_out] at hu; omega)
  | failed hf hl hq => exact .failed (ht.thenFailed hf) hl hq

theorem LoopStep.Mirrors.after {σ : Type} {x y : LoopStep σ} (h : x.Mirrors t k L J y) (ht : s.Sent n t) : x.Mirrors s (n + k) L J y := by
  cases h with
  | more hm hu hj => exact .more (by omega) (ht.trans hu) hj
  | stop hr => exact .stop (hr.after ht)
  | failed hf hl hx => exact .failed (ht.thenFailed hf) hl hx

/-- A body that ends at once. -/
theorem mirrors_of_sent {r q : Run} {u : State} (h : s.Sent n u) (hn : n ≤ k) (hq : q.RunsTo fun t => t.out = u.out) : r.Mirrors s k L q :=
  .spared (hq.imp fun t ht => by rw [ht, h.length_out]; omega)

end mirrors

/-- A body that runs on only appends to OUT. -/
theorem Run.Ends.extends {s : State} {W : Pos → Prop} {r : Run} (h : r.Ends s.Advances W) (k : r.NoReset) :
    r.RunsTo fun t => s.out <+: t.out :=
  (h.runsTo k).imp fun _ ht => ht.1.out

theorem LoopStep.RunsTo.imp {σ : Type} {P Q : State → Prop} {x : LoopStep σ} (h : x.RunsTo P) (hPQ : ∀ s, P s → Q s) : x.RunsTo Q := by
  cases x with
  | more y s => exact hPQ s h
  | stop r => exact Run.RunsTo.imp h hPQ

theorem LoopStep.Advances.extends {σ : Type} {s : State} {W : Pos → Prop} {x : LoopStep σ} (h : x.Advances s W) (k : x.NoReset) :
    x.RunsTo fun t => s.out <+: t.out := by
  cases x with
  | more y t => exact h.2.out
  | stop r => exact Run.Ends.extends (W := W) h k

/-- Token loops side by side, when each iteration is and only appends to OUT. -/
theorem overTokens_mirrors {σ : Type} {pos : σ → Pos} {body : σ → Token → State → LoopStep σ} {L : Byte → State → Prop}
    {J : State → Prop} (hext : ∀ x tok u, (body x tok u).RunsTo fun t => u.out <+: t.out) (hconsume : ∀ u tok ts, J u → J (u.consume tok ts))
    (hbody : ∀ x tok u k, u.pace = none → u.FailsAt k → J u → (body x tok u).Mirrors u k L J (body x tok u.accepting))
    (ts : List Token) (x : σ) {s : State} {k : Nat} (hp : s.pace = none) (hf : s.FailsAt k) (hj : J s) :
    (overTokens pos body ts x s).Mirrors s k L (overTokens pos body ts x s.accepting) := by
  induction ts generalizing x s k with
  | nil => exact mirrors_of_sent (sent_zero rfl hp) (Nat.zero_le k) (rfl :)
  | cons tok ts ih =>
    have hread : s.Sent 0 (s.consume tok ts) := sent_zero (by cases tok <;> rfl) (by cases tok <;> simp [State.consume, State.tick, hp])
    have hsame : s.accepting.consume tok ts = (s.consume tok ts).accepting := by cases tok <;> rfl
    obtain ⟨k, rfl, hleft⟩ := hread.left (Nat.zero_le k) hf
    have hstep := hbody x tok (s.consume tok ts) k hread.pace hleft (hconsume s tok ts hj)
    refine Run.Mirrors.after ?_ hread
    generalize hb : body x tok (s.consume tok ts) = b at hstep
    generalize ha : body x tok (s.consume tok ts).accepting = a at hstep
    rw [← hsame] at ha
    cases hstep with
    | more hn ht hj =>
      obtain ⟨m, rfl, hm⟩ := ht.left hn hleft
      rw [overTokens_more (State.held_none hp) hb, overTokens_more (State.held_none (by exact hp)) ha]
      exact (ih _ ht.pace hm hj).after ht
    | stop hr => rwa [overTokens_stop (State.held_none hp) hb, overTokens_stop (State.held_none (by exact hp)) ha]
    | @failed v f _ hfail hl hext' =>
      rw [overTokens_stop (State.held_none hp) hb]
      refine .failed hfail hl ?_
      cases a with
      | more y u =>
        rw [overTokens_more (State.held_none (by exact hp)) ha]
        exact runsTo_overTokens (P := fun t => f.out ++ [v] <+: t.out) (fun w tok ts h => by cases tok <;> exact h)
          (fun x tok w h => (hext x tok w).imp fun _ ht => h.trans ht) ts y hext'
      | stop r => rwa [overTokens_stop (State.held_none (by exact hp)) ha]

/-! ### TREE_SERIALIZE (R123) -/

theorem serialNext_withOut (p : Option Idx) (s : State) (o : OutSide) :
    (s.withOut o).serialNext p = (s.serialNext p).map fun q => (q.1, q.2.withOut o) := by
  have hstack : (s.withOut o).stack = s.stack := rfl
  cases p with
  | some n => rfl
  | none =>
    simp only [State.serialNext, hstack, child_withOut]
    cases s.stack with
    | nil => rfl
    | cons e rest =>
      have hpop : ({ s.withOut o with stack := rest } : State) = State.withOut { s with stack := rest } o := rfl
      simp only [hpop, push_withOut]
      split
      · rfl
      · split
        · cases State.push { s with stack := rest } _ with
          | ok u =>
            simp only [Except.map, push_withOut]
            cases u.push _ <;> rfl
          | error f => rfl
        · rfl
        · rfl

/-- The output side of the same block with a sink that accepts. -/
def OutSide.accepting (o : OutSide) : OutSide := { o with sink := [], sinkRest := some .ok }

theorem accepting_eq_withOut {s : State} (hp : s.pace = none) : s.accepting = s.withOut s.outSide.accepting := by rw [State.withOut, ← hp]; rfl

/-- What does neither read nor write the output side. -/
theorem serialNext_accepting {s t : State} {p q : Option Idx} (hp : s.pace = none) (h : s.serialNext p = .ok (q, t)) :
    s.Sent 0 t ∧ s.accepting.serialNext p = .ok (q, t.accepting) := by
  have hown := serialNext_withOut p s s.outSide
  rw [State.withOut_outSide hp, h] at hown
  have ht : t = t.withOut s.outSide := (Prod.mk.inj (Except.ok.inj hown)).2
  refine ⟨sent_zero (congrArg State.outSide ht :) (congrArg State.pace ht :), ?_⟩
  rw [accepting_eq_withOut hp, serialNext_withOut, h, ht]
  rfl

theorem serialNext_accepting_error {s : State} {p : Option Idx} {f : Fault} (hp : s.pace = none) (h : s.serialNext p = .error f) :
    s.accepting.serialNext p = .error f := by
  rw [accepting_eq_withOut hp, serialNext_withOut, h]
  rfl

/-- TREE_SERIALIZE's loop only appends to OUT. -/
theorem serialLoop_extends (turns : Nat) (p : Option Idx) (s : State) : (serialLoop turns p s).RunsTo fun t => s.out <+: t.out :=
  (serialLoop_advances turns p s).extends ((serialLoop_keepsInq turns p rfl).imp fun _ _ => trivial)

section equations
variable {p : Option Idx} {s t : State} {b : Byte} (n : Nat)

theorem serialLoop_of_none (h : s.serialByte p = none) : serialLoop n p s = .ret s := by
  unfold serialLoop
  simp only [h]

theorem serialLoop_zero (h : s.serialByte p = some b) : serialLoop 0 p s = .stuck .notATree := by
  unfold serialLoop
  simp only [h]

theorem serialLoop_failed (h : s.serialByte p = some b) (he : s.emit b = .failed t) : serialLoop (n + 1) p s = .raised .snkIo 0 t := by
  rw [serialLoop.eq_def]
  simp only [h, he]

theorem serialLoop_accepted {q : Option Idx} {u : State} (h : s.serialByte p = some b) (he : s.emit b = .accepted t)
    (hn : t.serialNext p = .ok (q, u)) : serialLoop (n + 1) p s = serialLoop n q u := by
  rw [serialLoop.eq_def]
  simp only [h, he, hn]

theorem serialLoop_stuck {f : Fault} (h : s.serialByte p = some b) (he : s.emit b = .accepted t) (hn : t.serialNext p = .error f) :
    serialLoop (n + 1) p s = .stuck f := by
  rw [serialLoop.eq_def]
  simp only [h, he, hn]

end equations

theorem serialByte_accepting (p : Option Idx) (s : State) : s.accepting.serialByte p = s.serialByte p := by cases p <;> rfl

theorem serialLoop_mirrors_of_none (turns : Nat) {p : Option Idx} {s : State} {k : Nat} (hp : s.pace = none) (hb : s.serialByte p = none) :
    (serialLoop turns p s).Mirrors s k (fun _ _ => True) (serialLoop turns p s.accepting) := by
  rw [serialLoop_of_none turns ((serialByte_accepting p s).trans hb)]
  exact mirrors_of_sent (sent_zero rfl hp) (Nat.zero_le k) (rfl :)

theorem serialLoop_mirrors (turns : Nat) (p : Option Idx) {s : State} {k : Nat} (hp : s.pace = none) (hf : s.FailsAt k) :
    (serialLoop turns p s).Mirrors s k (fun _ _ => True) (serialLoop turns p s.accepting) := by
  induction turns generalizing p s k with
  | zero =>
    cases hb : s.serialByte p with
    | none => exact serialLoop_mirrors_of_none 0 hp hb
    | some b =>
      rw [serialLoop_zero ((serialByte_accepting p s).trans hb)]
      exact .spared trivial
  | succ n ih =>
    cases hb : s.serialByte p with
    | none => exact serialLoop_mirrors_of_none (n + 1) hp hb
    | some b =>
      have haccepting := (serialByte_accepting p s).trans hb
      have hsent := sent_offered hp b
      cases hnext : (s.offered [b]).serialNext p with
      | error f =>
        rw [serialLoop_stuck n haccepting (emit_accepting hp b) (serialNext_accepting_error hsent.pace hnext)]
        exact .spared trivial
      | ok r =>
        obtain ⟨q, u⟩ := r
        obtain ⟨hu, hsame⟩ := serialNext_accepting hsent.pace hnext
        rw [serialLoop_accepted n haccepting (emit_accepting hp b) hsame]
        cases k with
        | zero =>
          have hout : u.out = s.out ++ [b] := congrArg (fun x => x.2.1) (serialNext_portPart hnext)
          rw [serialLoop_failed n hb (emit_of_answer_fail hp b hf.2)]
          exact .failed (sentThenFailed_refused hp) trivial ((serialLoop_extends n q u.accepting).imp fun t ht => hout ▸ ht)
        | succ k =>
          obtain ⟨m, hm, hleft⟩ := (hsent.trans hu).left (Nat.le_add_left 1 k) hf
          obtain rfl : m = k := by omega
          rw [serialLoop_accepted n hb (emit_of_answer_ok hp b (hf.1 0 (by omega))) hnext, hm]
          exact (ih q hu.pace hleft).after (hsent.trans hu)

theorem treeSerializeBody_mirrors {s : State} {k : Nat} (hp : s.pace = none) (hf : s.FailsAt k) :
    (treeSerializeBody s).Mirrors s k (fun _ _ => True) (treeSerializeBody s.accepting) := by
  by_cases h : s.root = Config.nil
  · rw [treeSerializeBody, treeSerializeBody, if_pos h, if_pos (by exact h)]
    exact mirrors_of_sent (sent_zero rfl hp) (Nat.zero_le k) (rfl :)
  · rw [treeSerializeBody_of_ne_nil h, treeSerializeBody_of_ne_nil (s := s.accepting) h]
    have hstart : s.Sent 0 { s with stack := [{ node := s.root }] } := sent_zero rfl hp
    obtain ⟨m, rfl, hleft⟩ := hstart.left (Nat.zero_le k) hf
    exact (serialLoop_mirrors headerBytes none hstart.pace hleft).after hstart

/-! ### PACK (R130 to R132) -/

/-- Where the sink has failed v, ACC holds the upper ACC_N bits of v. -/
def HoldsUpperBits (v : Byte) (f : State) : Prop := f.accN ≠ 0 ∧ f.acc = v >>> (8 - f.accN.toNat)

/-- The byte that the eighth bit completes. -/
theorem upper_seven {acc : Byte} (h : acc.toNat < 128) (x : Bool) : acc = (2 * acc + bitByte x) >>> 1 := by
  have hb : (bitByte x).toNat ≤ 1 := by cases x <;> decide
  apply BitVec.eq_of_toNat_eq
  rw [BitVec.toNat_ushiftRight, BitVec.toNat_add, BitVec.toNat_mul, Nat.shiftRight_eq_div_pow]
  simp
  omega

/-- The partial byte. -/
theorem upper_shifted {acc : Byte} {n : Nat} (h : acc.toNat < 2 ^ n) (hn : n ≤ 8) : acc = (acc <<< (8 - n)) >>> (8 - n) := by
  apply BitVec.eq_of_toNat_eq
  have hpow : 2 ^ n * 2 ^ (8 - n) = 256 := by rw [← Nat.pow_add, Nat.add_sub_cancel' hn]
  have hlt : acc.toNat * 2 ^ (8 - n) < 256 := hpow ▸ Nat.mul_lt_mul_of_pos_right h (Nat.two_pow_pos _)
  rw [BitVec.toNat_ushiftRight, BitVec.toNat_shiftLeft, Nat.shiftLeft_eq, Nat.shiftRight_eq_div_pow, Nat.mod_eq_of_lt hlt,
    Nat.mul_div_cancel _ (Nat.two_pow_pos _)]

section pack
variable {s : State} {k : Nat} (hp : s.pace = none) (hf : s.FailsAt k) (hb : s.AccBounded)
include hp hf hb

theorem putBit_mirrors (x : Bool) : (s.putBit x).Mirrors s k HoldsUpperBits State.AccBounded (s.accepting.putBit x) := by
  by_cases h : s.accN = 7
  · have haccepting : s.accepting.putBit x = .accepted (s.offered [2 * s.acc + bitByte x]).clearAcc.accepting := by
      rw [State.putBit, if_pos (by exact h), show 2 * s.accepting.acc + bitByte x = 2 * s.acc + bitByte x from rfl, emit_accepting hp]
      rfl
    rw [haccepting, State.putBit, if_pos h]
    cases k with
    | zero =>
      rw [emit_of_answer_fail hp _ hf.2]
      refine .failed (sentThenFailed_refused hp) ⟨?_, ?_⟩ rfl
      · show s.accN ≠ 0
        rw [h]
        decide
      · show s.acc = (2 * s.acc + bitByte x) >>> (8 - s.accN.toNat)
        rw [State.AccBounded, h] at hb
        rw [h]
        exact upper_seven hb x
    | succ k =>
      rw [emit_of_answer_ok hp _ (hf.1 0 (by omega))]
      exact .accepted (by omega) (sent_offered hp _) (accBounded_of_zero rfl rfl)
  · rw [State.putBit, State.putBit, if_neg h, if_neg (by exact h)]
    exact .accepted (Nat.zero_le k) (sent_zero rfl hp) (hb.shift x h)

theorem flushPartial_mirrors : (flushPartial s).Mirrors s k HoldsUpperBits (flushPartial s.accepting) := by
  by_cases h : s.accN = 0
  · rw [flushPartial, flushPartial, if_pos h, if_pos (by exact h)]
    exact mirrors_of_sent (sent_zero rfl hp) (Nat.zero_le k) (rfl :)
  · have haccepting : flushPartial s.accepting = .ret (s.offered [s.acc <<< (8 - s.accN.toNat)]).accepting.clearAcc := by
      rw [flushPartial, if_neg (by exact h), show s.accepting.acc <<< (8 - s.accepting.accN.toNat) = s.acc <<< (8 - s.accN.toNat) from rfl,
        emit_accepting hp]
    rw [haccepting, flushPartial, if_neg h]
    cases k with
    | zero =>
      rw [emit_of_answer_fail hp _ hf.2]
      exact .failed (sentThenFailed_refused hp) ⟨h, upper_shifted hb (by omega)⟩ (List.prefix_refl _)
    | succ k => exact mirrors_of_sent (sent_offered hp _) (by omega) (rfl :)

end pack

theorem putBits_mirrors (b : Byte) (n : Nat) {s : State} {k : Nat} (hp : s.pace = none) (hf : s.FailsAt k) (hb : s.AccBounded) :
    (putBits b n s).Mirrors s k HoldsUpperBits State.AccBounded (putBits b n s.accepting) := by
  induction n generalizing s k with
  | zero => exact .more (Nat.zero_le k) (sent_zero rfl hp) hb
  | succ n ih =>
    have hbit := putBit_mirrors hp hf hb ((s.codeBitsOf b).getLsbD n)
    have hcode : s.accepting.codeBitsOf b = s.codeBitsOf b := rfl
    rw [putBits, putBits, hcode]
    generalize s.putBit _ = e at hbit ⊢
    generalize s.accepting.putBit _ = d at hbit ⊢
    cases hbit with
    | accepted hn ht hb =>
      obtain ⟨m, rfl, hm⟩ := ht.left hn hf
      exact (ih ht.pace hm hb).after ht
    | failed hfail hl hu =>
      exact .failed hfail hl (((putBits_advances b n _).extends (putBits_noReset b n _)).imp fun _ h => hu ▸ h)

theorem packToken_extends (tok : Token) (s : State) : (packToken () tok s).RunsTo fun t => s.out <+: t.out := by
  cases tok with
  | fail => exact List.prefix_rfl
  | endOfPass => exact (flushPartial_advances s).extends (flushPartial_noReset s)
  | byte b =>
    by_cases h : s.codeLenOf b = 0
    · rw [packToken, if_pos h]
      exact List.prefix_rfl
    · rw [packToken_coded h]
      exact (putBits_advances b _ s).extends (putBits_noReset b _ s)

theorem packToken_mirrors (tok : Token) {s : State} {k : Nat} (hp : s.pace = none) (hf : s.FailsAt k) (hb : s.AccBounded) :
    (packToken () tok s).Mirrors s k HoldsUpperBits State.AccBounded (packToken () tok s.accepting) := by
  cases tok with
  | fail => exact .stop (mirrors_of_sent (sent_zero rfl hp) (Nat.zero_le k) (rfl :))
  | endOfPass => exact .stop (flushPartial_mirrors hp hf hb)
  | byte b =>
    by_cases h : s.codeLenOf b = 0
    · rw [packToken, packToken, if_pos h, if_pos (by exact h)]
      exact .stop (mirrors_of_sent (sent_zero rfl hp) (Nat.zero_le k) (rfl :))
    · rw [packToken_coded h, packToken_coded (s := s.accepting) h]
      exact putBits_mirrors b _ hp hf hb

theorem packBody_mirrors {s : State} {k : Nat} (hp : s.pace = none) (hf : s.FailsAt k) :
    (packBody s).Mirrors s k HoldsUpperBits (packBody s.accepting) := by
  have hstart : s.Sent 0 s.clearAcc := sent_zero rfl hp
  obtain ⟨m, rfl, hleft⟩ := hstart.left (Nat.zero_le k) hf
  exact (overTokens_mirrors (J := State.AccBounded) (fun _ tok u => packToken_extends tok u)
    (fun u tok ts h => h.congr (by cases tok <;> rfl)) (fun _ tok u m hp hf hb => packToken_mirrors tok hp hf hb) s.inq () hstart.pace hleft
    (accBounded_of_zero rfl rfl)).after hstart

/-! ### UNPACK (R134, R135) -/

/-- Where the sink has failed v, CUR is at the leaf of v. -/
def AtLeaf (v : Byte) (f : State) : Prop := f.cur = leafSlot v

theorem emitLeaf_mirrors {s : State} {k : Nat} (hp : s.pace = none) (hf : s.FailsAt k) (hc : isLeaf s.cur = true) :
    s.emitLeaf.Mirrors s k AtLeaf (fun _ => True) s.accepting.emitLeaf := by
  have haccepting : s.accepting.emitLeaf = .accepted (State.accepting { s.offered [leafValue s.cur] with cur := s.root }) := by
    rw [State.emitLeaf, show s.accepting.cur = s.cur from rfl, emit_accepting hp]
    rfl
  rw [haccepting, State.emitLeaf]
  cases k with
  | zero =>
    rw [emit_of_answer_fail hp _ hf.2]
    exact .failed (sentThenFailed_refused hp) (leafSlot_leafValue hc).symm rfl
  | succ k =>
    rw [emit_of_answer_ok hp _ (hf.1 0 (by omega))]
    exact .accepted (by omega) (sent_offered hp _) trivial

theorem walkBits_mirrors (b : Byte) (n : Nat) {s : State} {k : Nat} (hp : s.pace = none) (hf : s.FailsAt k) :
    (walkBits b n s).Mirrors s k AtLeaf (fun _ => True) (walkBits b n s.accepting) := by
  induction n generalizing s k with
  | zero => exact .more (Nat.zero_le k) (sent_zero rfl hp) trivial
  | succ n ih =>
    have hchild : s.accepting.child (edge (b.getLsbD n)) s.accepting.cur = s.child (edge (b.getLsbD n)) s.cur := rfl
    simp only [walkBits, hchild]
    cases s.child (edge (b.getLsbD n)) s.cur with
    | error f => exact .stop (.spared trivial)
    | ok c =>
      have hmoved : s.Sent 0 { s with cur := c } := sent_zero rfl hp
      obtain ⟨m, rfl, hleft⟩ := hmoved.left (Nat.zero_le k) hf
      refine LoopStep.Mirrors.after (t := { s with cur := c }) ?_ hmoved
      have hsame : ({ s.accepting with cur := c } : State) = State.accepting { s with cur := c } := rfl
      simp only [hsame]
      split
      next hleaf =>
        have hemit := emitLeaf_mirrors hmoved.pace hleft hleaf
        generalize State.emitLeaf { s with cur := c } = e at hemit ⊢
        generalize State.emitLeaf (State.accepting { s with cur := c }) = d at hemit ⊢
        cases hemit with
        | accepted hn ht _ =>
          obtain ⟨j, rfl, hj⟩ := ht.left hn hleft
          exact (ih ht.pace hj).after ht
        | failed hfail hl hu =>
          exact .failed hfail hl (((walkBits_advances b n _).extends (walkBits_noReset b n _)).imp fun _ h => hu ▸ h)
      next => exact ih hmoved.pace hleft

theorem unpackToken_extends (tok : Token) (s : State) : (unpackToken () tok s).RunsTo fun t => s.out <+: t.out := by
  cases tok with
  | fail => exact List.prefix_rfl
  | endOfPass => exact List.prefix_rfl
  | byte b => exact (walkBits_advances b 8 s).extends (walkBits_noReset b 8 s)

theorem unpackToken_mirrors (tok : Token) {s : State} {k : Nat} (hp : s.pace = none) (hf : s.FailsAt k) :
    (unpackToken () tok s).Mirrors s k AtLeaf (fun _ => True) (unpackToken () tok s.accepting) := by
  cases tok with
  | fail => exact .stop (mirrors_of_sent (sent_zero rfl hp) (Nat.zero_le k) (rfl :))
  | endOfPass => exact .stop (mirrors_of_sent (sent_zero rfl hp) (Nat.zero_le k) (rfl :))
  | byte b => exact walkBits_mirrors b 8 hp hf

theorem unpackBody_mirrors {s : State} {k : Nat} (hp : s.pace = none) (hf : s.FailsAt k) :
    (unpackBody s).Mirrors s k AtLeaf (unpackBody s.accepting) := by
  by_cases h : s.root = Config.nil
  · rw [unpackBody, unpackBody, if_pos h, if_pos (by exact h)]
    exact mirrors_of_sent (sent_zero rfl hp) (Nat.zero_le k) (rfl :)
  · rw [unpackBody, unpackBody, if_neg h, if_neg (by exact h)]
    have hstart : s.Sent 0 { s with cur := s.root } := sent_zero rfl hp
    obtain ⟨m, rfl, hleft⟩ := hstart.left (Nat.zero_le k) hf
    exact (overTokens_mirrors (J := fun _ => True) (fun _ tok u => unpackToken_extends tok u) (fun _ _ _ _ => trivial)
      (fun _ tok u m hp hf _ => unpackToken_mirrors tok hp hf) s.inq () hstart.pace hleft trivial).after hstart

theorem unpackUnlessEmptyBody_mirrors {s : State} {k : Nat} (hp : s.pace = none) (hf : s.FailsAt k) :
    (unpackUnlessEmptyBody s).Mirrors s k AtLeaf (unpackUnlessEmptyBody s.accepting) := by
  by_cases h : s.emptyArt = true
  · rw [unpackUnlessEmptyBody, unpackUnlessEmptyBody, if_pos h, if_pos (by exact h)]
    exact mirrors_of_sent (sent_zero rfl hp) (Nat.zero_le k) (rfl :)
  · rw [unpackUnlessEmptyBody, unpackUnlessEmptyBody, if_neg h, if_neg (by exact h)]
    exact unpackBody_mirrors hp hf

end Sys2Proof.Machine
end

section
/-! PROOFS. The sink's failure in the commands that emit (spec/60_exceptions.md R146, R150, R152). COMPRESS's table stages and TREE_DESERIALIZE emit
nothing, so that a failure lies in TREE_SERIALIZE, PACK or UNPACK (48_composite.md R139, R141). -/

namespace Sys2Proof.Machine

open Sys2Proof

/-! ### Beside each other, stage by stage -/

section stages
variable {s : State} {k : Nat} {L : Byte → State → Prop}

/-- What else is known of the state that the failure leaves. -/
theorem Run.Mirrors.imp_of_runsTo {r q : Run} {P : State → Prop} {M : Byte → State → Prop} (h : r.Mirrors s k L q) (hr : r.RunsTo P)
    (hM : ∀ v f, L v f → P f → M v f) : r.Mirrors s k M q := by
  cases h with
  | spared hq => exact .spared hq
  | failed hf hl hq => exact .failed hf (hM _ _ hl hr) hq

/-- A body that emits nothing returns in the same state beside a sink that accepts. -/
theorem Quiet.ret_accepting {body : State → Run} (h : Quiet body) {t : State} (hp : s.pace = none) (ht : body s = .ret t) :
    body s.accepting = .ret t.accepting ∧ s.Sent 0 t := by
  have hkeeps := h.keeps hp
  rw [ht] at hkeeps
  obtain ⟨hout, hpace⟩ := hkeeps
  refine ⟨?_, sent_zero hout hpace⟩
  rw [accepting_eq_withOut hp, h.withOut s _ hp, ht, accepting_eq_withOut hpace, hout]
  rfl

/-- When it does not return, the later stages do not run. -/
theorem Quiet.mirrors_of_no_ret {body : State → Run} (h : Quiet body) (todo : List Stage) (hp : s.pace = none) (hno : ∀ t, body s ≠ .ret t) :
    ((body s).chain todo).Mirrors s k L ((body s.accepting).chain todo) := by
  have hreset := h.noReset s
  rw [accepting_eq_withOut hp, h.withOut s _ hp]
  cases hr : body s with
  | ret t => exact absurd hr (hno t)
  | reset t => rw [hr] at hreset; exact hreset.elim
  | stuck f => exact .spared (by rw [Run.withOut, Run.chain_stuck]; trivial)
  | raised e info t => exact mirrors_of_sent (sent_zero rfl hp) (Nat.zero_le k) (by rw [Run.withOut, Run.chain_raised]; rfl)
  | wait pos later t => exact mirrors_of_sent (sent_zero rfl hp) (Nat.zero_le k) (by rw [Run.withOut, Run.chain_wait]; rfl)

end stages

theorem decompressBody_mirrors {s : State} {k : Nat} (hp : s.pace = none) (hf : s.FailsAt k) :
    (decompressBody s).Mirrors s k AtLeaf (decompressBody s.accepting) := by
  by_cases hret : ∃ t, treeDeserializeBody s = .ret t
  · obtain ⟨t, ht⟩ := hret
    obtain ⟨haccepting, hsent⟩ := quiet_treeDeserialize.ret_accepting hp ht
    obtain ⟨m, rfl, hleft⟩ := hsent.left (Nat.zero_le k) hf
    rw [decompressBody, decompressBody, ht, haccepting, decompressRest, Run.chain_cons, Run.chain_cons, Run.chain_nil, Run.chain_nil,
      Run.andThen_free hsent.pace, Run.andThen_free (by exact hsent.pace)]
    exact (unpackUnlessEmptyBody_mirrors hsent.pace hleft).after hsent
  · exact quiet_treeDeserialize.mirrors_of_no_ret decompressRest hp fun t ht => hret ⟨t, ht⟩

/-! ### COMPRESS's table stages (R139) -/

/-- FREQ_CLEAR to CODES_DERIVE. -/
def makeTables (s : State) : Run := (freqClearBody s).chain [.freqCount, .heapBuild, .treeBuild, .codesDerive]

theorem compressBody_eq (s : State) : compressBody s = ((makeTables s).andThen .treeSerialize).andThen .pack := rfl

theorem quiet_makeTables : Quiet makeTables := quiet_freqClear.chain _ fun c hc => by
  obtain rfl | rfl | rfl | rfl : c = .freqCount ∨ c = .heapBuild ∨ c = .treeBuild ∨ c = .codesDerive := by simpa using hc
  · exact quiet_freqCount
  · exact quiet_heapBuild
  · exact quiet_treeBuild
  · exact quiet_codesDerive

theorem andThen_eq_ret {r : Run} {c : Stage} {t : State} (h : r.andThen c = .ret t) : ∃ u, r = .ret u ∧ stageBody c u.tick = .ret t := by
  cases r with
  | ret u =>
    rw [Run.andThen_ret] at h
    split at h
    · cases h
    · exact ⟨u, rfl, h⟩
  | _ => cases h

theorem ofExcept_eq_ret {x : Except Fault State} {t : State} (h : Run.ofExcept x = .ret t) : x = .ok t := by
  cases x with
  | ok u => exact congrArg Except.ok (Run.ret.inj h)
  | error f => cases h

/-- The stages of `makeTables`, when each returns. -/
theorem makeTables_eq_ret {s p : State} (h : makeTables s = .ret p) : ∃ d b, freqCountBody s.clearFreq.tick = .ret d ∧
    d.tick.buildHeap.tick.treeBuild = .ok b ∧ b.tick.deriveCodes = .ok p := by
  obtain ⟨b, h, hderive⟩ := andThen_eq_ret (c := .codesDerive) h
  obtain ⟨c, h, hbuild⟩ := andThen_eq_ret (c := .treeBuild) h
  obtain ⟨d, h, hheap⟩ := andThen_eq_ret (c := .heapBuild) h
  obtain ⟨e, h, hcount⟩ := andThen_eq_ret (c := .freqCount) h
  obtain rfl : s.clearFreq = e := Run.ret.inj h
  obtain rfl : d.tick.buildHeap = c := Run.ret.inj hheap
  exact ⟨d, b, hcount, ofExcept_eq_ret hbuild, ofExcept_eq_ret hderive⟩

/-- They leave ACC and ACC_N alone. -/
theorem makeTables_accPart {s p : State} (h : makeTables s = .ret p) : p.accPart = s.accPart := by
  obtain ⟨d, b, hcount, hbuild, hderive⟩ := makeTables_eq_ret h
  have hd := freqCountBody_keeps s.clearFreq.tick
  rw [hcount] at hd
  calc p.accPart = b.accPart := (congrArg State.accPart (deriveCodes_lessCodes hderive) :)
    _ = d.tick.buildHeap.accPart := (congrArg State.accPart (treeBuild_lessTree hbuild) :)
    _ = d.accPart := (congrArg State.accPart (buildHeap_law d.tick).1.lessTree :)
    _ = s.accPart := (congrArg State.accPart (hd :) :)

/-- They leave a tree, or no tree and no codes. -/
theorem makeTables_tree {s p : State} (h : makeTables s = .ret p) :
    (∃ tree, p.HasTree tree) ∨ p.root = Config.nil ∧ ∀ v, p.codeLenOf v = 0 := by
  obtain ⟨d, b, -, hbuild, hderive⟩ := makeTables_eq_ret h
  have hb : b.TreesOk := treesOk_treeBuild (State.TreesOk.congr (u := d.tick.buildHeap.tick) (treesOk_buildHeap d.tick) rfl) hbuild
  have hp := deriveCodes_lessCodes hderive
  rcases hb.root with hnil | ⟨tree, htree⟩
  · rw [State.deriveCodes_nil (s := b.tick) hnil] at hderive
    obtain rfl := Except.ok.inj hderive
    exact .inr ⟨hnil, fun v => by simp [State.codeLenOf]⟩
  · exact .inl ⟨tree, htree.congr (congrArg State.node hp :) (congrArg State.root hp :)⟩

/-! ### COMPRESS's emitting stages -/

/-- With no codes PACK puts no bit. -/
theorem packBody_silent {s : State} (h : ∀ v, s.codeLenOf v = 0) : (packBody s).RunsTo (·.out = s.out) := by
  refine (runsTo_overTokens (P := fun t => t.out = s.out ∧ t.accN = 0 ∧ ∀ v, t.codeLenOf v = 0) (fun u tok ts hu => by cases tok <;> exact hu)
    (fun _ tok u hu => ?_) s.inq () (s := s.clearAcc) ⟨rfl, rfl, h⟩).imp fun _ ht => ht.1
  obtain ⟨hout, hn, hcodes⟩ := hu
  cases tok with
  | fail => exact ⟨hout, hn, hcodes⟩
  | endOfPass =>
    rw [packToken, flushPartial, if_pos hn]
    exact ⟨hout, hn, hcodes⟩
  | byte b =>
    rw [packToken, if_pos (hcodes b)]
    exact ⟨hout, hn, hcodes⟩

/-- With no tree and no codes nothing is emitted. -/
theorem serializeThenPack_silent {s : State} (hp : s.pace = none) (hr : s.root = Config.nil) (h : ∀ v, s.codeLenOf v = 0) :
    ((treeSerializeBody s).andThen .pack).RunsTo (·.out = s.out) := by
  rw [treeSerializeBody, if_pos hr, Run.andThen_free hp]
  exact packBody_silent h

/-- What COMPRESS leaves when the sink fails v after k bytes: in the header of its tree ACC and ACC_N are not touched yet; in the payload ACC holds
upper bits of v. -/
def CompressFailed (s : State) (tree : CodeTree) (k : Nat) (v : Byte) (f : State) : Prop :=
  f.HasTree tree ∧ (k < tree.header.length → f.acc = s.acc ∧ f.accN = s.accN) ∧ (tree.header.length ≤ k → HoldsUpperBits v f)

theorem packBody_hasTree {s : State} {tree : CodeTree} (h : s.HasTree tree) : (packBody s).RunsTo (·.HasTree tree) :=
  (packBody_keeps s).imp fun _ ht => h.congr (congrArg State.node ht :) (congrArg State.root ht :)

theorem packBody_extends (s : State) : (packBody s).RunsTo fun t => s.out <+: t.out :=
  runsTo_overTokens (P := fun t => s.out <+: t.out) (fun u tok ts hu => by cases tok <;> exact hu)
    (fun _ tok u hu => (packToken_extends tok u).imp fun _ ht => hu.trans ht) _ () List.prefix_rfl

section emit
variable {s : State} {tree : CodeTree} {k : Nat} (hp : s.pace = none) (h : s.HasTree tree)
include hp h

/-- The state after the header. -/
theorem serialize_accepting : treeSerializeBody s.accepting = .ret (State.accepting { s.offered tree.header with stack := [] }) := by
  rw [treeSerializeBody_completes (s := s.accepting) (h.congr rfl rfl) hp fun j _ => accepting_answers s j]
  simp [State.offered, State.accepting]

theorem serializeThenPack_hasTree : ((treeSerializeBody s.accepting).andThen .pack).RunsTo (·.HasTree tree) := by
  rw [serialize_accepting hp h, Run.andThen_free (by exact hp)]
  exact packBody_hasTree (h.congr rfl rfl)

/-- The failure lies in the header or in the payload. -/
theorem serializeThenPack_mirrors (hf : s.FailsAt k) : ((treeSerializeBody s).andThen .pack).Mirrors s k (CompressFailed s tree k)
    ((treeSerializeBody s.accepting).andThen .pack) := by
  rw [serialize_accepting hp h, Run.andThen_free (by exact hp)]
  rcases Nat.lt_or_ge k tree.header.length with hk | hk
  · obtain ⟨stack, hserial⟩ := treeSerializeBody_fails h hp hf hk
    have hnext : tree.header.take k ++ [tree.header[k]] <+: tree.header := by
      rw [List.take_concat_get']
      exact List.take_prefix _ _
    rw [hserial, Run.andThen_raised]
    refine .failed (v := tree.header[k]) ⟨_, List.length_take_of_le hk.le, rfl, hp⟩
      ⟨h.congr rfl rfl, fun _ => ⟨rfl, rfl⟩, fun hle => by omega⟩ ((packBody_extends _).imp fun u hu => ?_)
    have hout : s.out ++ (tree.header.take k ++ [tree.header[k]]) <+: s.out ++ tree.header := (List.prefix_append_right_inj _).2 hnext
    rw [← List.append_assoc] at hout
    exact hout.trans hu
  · have hsent : s.Sent tree.header.length { s.offered tree.header with stack := [] } := ⟨tree.header, rfl, rfl, hp⟩
    obtain ⟨m, rfl, hleft⟩ := hsent.left hk hf
    rw [treeSerializeBody_completes h hp (hf.1.mono hk), Run.andThen_free (by exact hp)]
    exact ((packBody_mirrors hsent.pace hleft).after hsent).imp_of_runsTo (packBody_hasTree (h.congr rfl rfl))
      fun v f hbits htree => ⟨htree, fun hlt => by omega, fun _ => hbits⟩

end emit

/-- COMPRESS emits only when its table stages have made a tree (R139). -/
theorem compressBody_mirrors {s : State} {k : Nat} (hp : s.pace = none) (hf : s.FailsAt k) :
    (compressBody s).Mirrors s k (fun _ _ => False) (compressBody s.accepting) ∨
      ∃ tree, (compressBody s).Mirrors s k (CompressFailed s tree k) (compressBody s.accepting) ∧
        (compressBody s.accepting).RunsTo (·.HasTree tree) := by
  by_cases hret : ∃ p, makeTables s = .ret p
  · obtain ⟨p, hmake⟩ := hret
    obtain ⟨haccepting, hsent⟩ := quiet_makeTables.ret_accepting hp hmake
    have hserial : stageBody .treeSerialize = treeSerializeBody := rfl
    rw [compressBody_eq, compressBody_eq, hmake, haccepting, Run.andThen_free hsent.pace, Run.andThen_free (by exact hsent.pace), hserial]
    rcases makeTables_tree hmake with ⟨tree, htree⟩ | ⟨hroot, hcodes⟩
    · obtain ⟨m, hm, hleft⟩ := hsent.left (Nat.zero_le k) hf
      obtain rfl : k = m := by omega
      have hacc : p.acc = s.acc ∧ p.accN = s.accN := Prod.mk.inj (makeTables_accPart hmake)
      have hmirrors := (serializeThenPack_mirrors hsent.pace htree hleft).after hsent
      rw [Nat.zero_add, show CompressFailed p tree k = CompressFailed s tree k by unfold CompressFailed; rw [hacc.1, hacc.2]] at hmirrors
      exact .inr ⟨tree, hmirrors, serializeThenPack_hasTree hsent.pace htree⟩
    · exact .inl (mirrors_of_sent hsent (Nat.zero_le k) (serializeThenPack_silent (s := p.accepting) hsent.pace hroot hcodes))
  · exact .inl (quiet_makeTables.mirrors_of_no_ret [.treeSerialize, .pack] hp fun p hmake => hret ⟨p, hmake⟩)

/-! ### The command -/

/-- What the sink's failure of the byte after the first k leaves of a command (R146, R150, R152). -/
def State.SinkFailed (s : State) (op : Byte) (emitted : List Byte) (k : Nat) (t : State) : Prop :=
  t.seq = .idle ∧ t.done = false ∧ t.err = ⟨0x02, op, 0, 1⟩ ∧ t.out = s.out ++ emitted.take k ∧ t.outCount = BitVec.ofNat 32 k ∧
    t.sink = s.sink.drop (k + 1)

theorem State.SinkFailed.and {s t : State} {op : Byte} {emitted : List Byte} {k : Nat} {P : Prop} (h : s.SinkFailed op emitted k t) (hP : P) :
    t.seq = .idle ∧ t.done = false ∧ t.err = ⟨0x02, op, 0, 1⟩ ∧ t.out = s.out ++ emitted.take k ∧ t.outCount = BitVec.ofNat 32 k ∧
      t.sink = s.sink.drop (k + 1) ∧ P := by
  obtain ⟨hseq, hdone, herr, hout, hcount, hsink⟩ := h
  exact ⟨hseq, hdone, herr, hout, hcount, hsink, hP⟩

/-- The bytes before the failed one, and that one. -/
theorem take_of_prefix {bytes emitted : List Byte} {v w : Byte} (h : bytes ++ [w] <+: emitted) (hv : emitted[bytes.length]? = some v) :
    emitted.take bytes.length = bytes ∧ w = v := by
  obtain ⟨rest, rfl⟩ := h
  simpa using hv

section command
variable {s u : State} {op : Byte} {c : Stage} {todo : List Stage} {r q : Run} {k : Nat} {v : Byte} {emitted : List Byte}
  {L : Byte → State → Prop} (hu : settle op q = .next u) (hout : u.out = s.out ++ emitted) (hv : emitted[k]? = some v)
include hu hout hv

/-- A run that stands beside one that emits the byte after the first k has failed it. -/
theorem sinkFailed_of_mirrors (h : r.Mirrors (s.accept op (.enter c) todo) k L q) :
    ∃ t, settle op r = .next t ∧ s.SinkFailed op emitted k t ∧ ∃ f, L v f ∧ t = f.raiseError op .snkIo 0 := by
  have hlen : k < emitted.length := (List.getElem?_eq_some_iff.1 hv).1
  cases h with
  | spared hq =>
    obtain ⟨w, hw, hrun⟩ := lessRun_of_settle hq hu
    have hsame : u.out = w.out := (congrArg State.out hrun :)
    have : s.out.length + emitted.length ≤ s.out.length + k := by
      rw [← List.length_append, ← hout, hsame]
      exact hw
    omega
  | @failed w f _ hfail hl hq =>
    obtain ⟨bytes, rfl, hf, hp⟩ := hfail
    obtain ⟨x, hx, hrun⟩ := lessRun_of_settle hq hu
    have hsame : u.out = x.out := (congrArg State.out hrun :)
    have hfout : f.out = s.out ++ bytes := (congrArg OutSide.out hf :)
    rw [← hsame, hout, hfout, List.append_assoc, List.prefix_append_right_inj] at hx
    obtain ⟨htake, rfl⟩ := take_of_prefix hx hv
    refine ⟨_, settle_raised_free _ _ _ hp, ⟨rfl, (congrArg OutSide.done hf :), rfl, by rw [htake]; exact hfout, ?_, ?_⟩, f, hl, rfl⟩
    · have hcount : f.outCount = 0 + BitVec.ofNat 32 bytes.length := (congrArg OutSide.outCount hf :)
      simpa using hcount
    · have hsink : f.sink = (s.sink.drop bytes.length).drop 1 := (congrArg OutSide.sink hf :)
      rwa [List.drop_drop] at hsink

end command

/-! ### The commands that emit nothing -/

/-- The commands that offer bytes to the sink (R61). -/
def Instr.emits : Instr → Bool
  | .treeSerialize | .pack | .unpack | .compress | .decompress => true
  | _ => false

theorem exec_out_of_not_emits {i : Instr} (hi : Instr.emits i = false) {s u : State} (hs : s.Ready) (hu : exec i s = .next u) : u.out = s.out := by
  obtain ⟨hnop, hclearErr, hfreqClear, hheapBuild, htreeStep, htreeBuild, hcodesDerive⟩ := tableCommandFrames s u
  obtain ⟨hfreqCount, -, htreeDeserialize, -, -⟩ := streamCommandFrames s u
  cases i with
  | nop => exact (congrArg State.out (hnop hu) :)
  | softReset =>
    rw [exec_softReset_idle (State.busy_idle hs.1), launch_runs (State.held_none hs.2.2)] at hu
    obtain rfl := Host.Outcome.next.inj hu
    rfl
  | clearErr => exact (congrArg State.out (hclearErr hu) :)
  | freqClear => exact (congrArg State.out (hfreqClear hu) :)
  | freqCount => exact (congrArg State.out (hfreqCount hu) :)
  | heapBuild => exact (congrArg State.out (hheapBuild hu) :)
  | treeStep => exact (congrArg State.out (htreeStep hu) :)
  | treeBuild => exact (congrArg State.out (htreeBuild hu) :)
  | codesDerive => exact (congrArg State.out (hcodesDerive hu) :)
  | treeDeserialize => exact (congrArg State.out (htreeDeserialize hu) :)
  | treeSerialize | pack | unpack | compress | decompress => cases hi

/-! ### The five commands that emit -/

theorem State.FailsAt.accept {s : State} {k : Nat} (h : s.FailsAt k) (op : Byte) (pos : Pos) (todo : List Stage) : (s.accept op pos todo).FailsAt k :=
  ⟨fun j hj => h.1 j hj, h.2⟩

section five
variable {s u : State} {emitted : List Byte} {k : Nat} {v : Byte} (hs : s.Ready) (hf : s.FailsAt k) (hout : u.out = s.out ++ emitted)
  (hv : emitted[k]? = some v)
include hs hout hv

/-- A command whose body stands beside itself with a sink that accepts. -/
theorem exec_sinkFailed {i : Instr} {c : Stage} {todo : List Stage} {body : State → Run} {L : Byte → State → Prop}
    (hi : ∀ s, exec i s = command (opcodeOf i) c todo body s) (hu : exec i s.accepting = .next u)
    (hm : ∀ a : State, a.pace = none → a = s.accept (opcodeOf i) (.enter c) todo → (body a).Mirrors a k L (body a.accepting)) :
    ∃ t, exec i s = .next t ∧ s.SinkFailed (opcodeOf i) emitted k t ∧ ∃ f, L v f ∧ t = f.raiseError (opcodeOf i) .snkIo 0 := by
  obtain ⟨hq, he, hp⟩ := hs
  rw [hi, command_ready (s := s.accepting) hq he hp] at hu
  rw [hi, command_ready hq he hp]
  exact sinkFailed_of_mirrors hu hout hv (hm _ hp rfl)

include hf

theorem exec_treeSerialize_sinkFailed (hu : exec .treeSerialize s.accepting = .next u) :
    ∃ t, exec .treeSerialize s = .next t ∧ s.SinkFailed 0x50 emitted k t := by
  obtain ⟨t, ht, hfailed, -⟩ := exec_sinkFailed hs hout hv (fun _ => rfl) hu
    fun a hp ha => treeSerializeBody_mirrors hp (ha ▸ hf.accept _ _ _)
  exact ⟨t, ht, hfailed⟩

theorem exec_pack_sinkFailed (hu : exec .pack s.accepting = .next u) :
    ∃ t, exec .pack s = .next t ∧ s.SinkFailed 0x60 emitted k t ∧ HoldsUpperBits v t := by
  obtain ⟨t, ht, hfailed, f, hbits, rfl⟩ := exec_sinkFailed hs hout hv (fun _ => rfl) hu
    fun a hp ha => packBody_mirrors hp (ha ▸ hf.accept _ _ _)
  exact ⟨_, ht, hfailed, hbits⟩

theorem exec_unpack_sinkFailed (hu : exec .unpack s.accepting = .next u) :
    ∃ t, exec .unpack s = .next t ∧ s.SinkFailed 0x70 emitted k t ∧ t.cur = leafSlot v := by
  obtain ⟨t, ht, hfailed, f, hleaf, rfl⟩ := exec_sinkFailed hs hout hv (fun _ => rfl) hu
    fun a hp ha => unpackBody_mirrors hp (ha ▸ hf.accept _ _ _)
  exact ⟨_, ht, hfailed, hleaf⟩

theorem exec_decompress_sinkFailed (hu : exec .decompress s.accepting = .next u) :
    ∃ t, exec .decompress s = .next t ∧ s.SinkFailed (opcodeOf .decompress) emitted k t ∧ t.cur = leafSlot v := by
  obtain ⟨t, ht, hfailed, f, hleaf, rfl⟩ := exec_sinkFailed hs hout hv (fun _ => rfl) hu
    fun a hp ha => decompressBody_mirrors hp (ha ▸ hf.accept _ _ _)
  exact ⟨_, ht, hfailed, hleaf⟩

theorem exec_compress_sinkFailed (hu : exec .compress s.accepting = .next u) :
    ∃ t, exec .compress s = .next t ∧ s.SinkFailed (opcodeOf .compress) emitted k t ∧ ∃ tree, u.HasTree tree ∧ t.HasTree tree ∧
      (k < tree.header.length → t.acc = s.acc ∧ t.accN = s.accN) ∧ (tree.header.length ≤ k → HoldsUpperBits v t) := by
  have hi : ∀ s, exec .compress s = command (opcodeOf .compress) .freqClear compressRest compressBody s := fun _ => rfl
  rcases compressBody_mirrors (s := s.accept (opcodeOf .compress) (.enter .freqClear) compressRest) hs.2.2 (hf.accept _ _ _)
    with hno | ⟨tree, hm, htree⟩
  · obtain ⟨-, -, -, f, hfalse, -⟩ := exec_sinkFailed hs hout hv hi hu fun a _ ha => ha ▸ hno
    exact hfalse.elim
  · obtain ⟨t, ht, hfailed, f, ⟨hleft, hheader, hpayload⟩, rfl⟩ := exec_sinkFailed hs hout hv hi hu
      fun a _ ha => (by subst ha; exact hm : (compressBody a).Mirrors a k (CompressFailed _ tree k) (compressBody a.accepting))
    rw [hi, command_ready (s := s.accepting) hs.1 hs.2.1 hs.2.2] at hu
    obtain ⟨w, hw, hrun⟩ := lessRun_of_settle htree hu
    exact ⟨_, ht, hfailed, tree, hw.congr (congrArg State.node hrun :) (congrArg State.root hrun :), hleft.congr rfl rfl, hheader, hpayload⟩

end five

theorem exec_treeSerialize_fails {s : State} {tree : CodeTree} {k : Nat} (hs : s.Ready) (h : s.HasTree tree) (hk : k < tree.header.length)
    (hf : s.FailsAt k) : ∃ t, exec .treeSerialize s = .next t ∧ t = { s.failedWith 0x50 .snkIo 0 with
      out := s.out ++ tree.header.take k, outCount := BitVec.ofNat 32 k, sink := s.sink.drop (k + 1), stack := t.stack } := by
  obtain ⟨stack, hbody⟩ := treeSerializeBody_fails (s := s.accept 0x50 (.enter .treeSerialize) []) (h.congr rfl rfl) hs.2.2 (hf.accept _ _ _) hk
  refine ⟨_, by rw [exec_treeSerialize_ready hs, hbody]; exact settle_raised_free _ _ _ hs.2.2, ?_⟩
  rw [refused_offered _ (List.length_take_of_le hk.le)]
  simp [State.raiseError, State.failedWith, State.accept]

/-- Settles O27: each command runs as it does beside a sink that accepts up to the failed byte (`Run.Mirrors`); TREE_SERIALIZE, PACK and UNPACK also
from the bytes themselves. -/
theorem sinkFailureRaisesSnkIo : Obligations.SinkFailureRaisesSnkIo := by
  refine ⟨fun s tree k hs h hk hf => exec_treeSerialize_fails hs h hk hf,
    fun s bytes b k rest hs hc hq hf hlt hle => exec_pack_fails_bit hs hf hc hq hlt hle,
    fun s bytes k rest hs hc hq hf hk hn => exec_pack_fails_flush hs hf hc hq hk hn,
    fun s tree payload b v k rest hs h hq hf hle hv => exec_unpack_fails hs h hq hf hle hv, fun i s u emitted k v hs hf hu hout hv => ?_⟩
  by_cases hi : Instr.emits i = true
  · cases i with
    | treeSerialize =>
      obtain ⟨t, ht, hfailed⟩ := exec_treeSerialize_sinkFailed hs hf hout hv hu
      exact ⟨t, ht, hfailed.and ⟨nofun, nofun, nofun⟩⟩
    | pack =>
      obtain ⟨t, ht, hfailed, hbits⟩ := exec_pack_sinkFailed hs hf hout hv hu
      exact ⟨t, ht, hfailed.and ⟨nofun, fun _ => hbits, nofun⟩⟩
    | unpack =>
      obtain ⟨t, ht, hfailed, hleaf⟩ := exec_unpack_sinkFailed hs hf hout hv hu
      exact ⟨t, ht, hfailed.and ⟨fun _ => hleaf, nofun, nofun⟩⟩
    | compress =>
      obtain ⟨t, ht, hfailed, htree⟩ := exec_compress_sinkFailed hs hf hout hv hu
      exact ⟨t, ht, hfailed.and ⟨nofun, nofun, fun _ => htree⟩⟩
    | decompress =>
      obtain ⟨t, ht, hfailed, hleaf⟩ := exec_decompress_sinkFailed hs hf hout hv hu
      exact ⟨t, ht, hfailed.and ⟨fun _ => hleaf, nofun, nofun⟩⟩
    | _ => cases hi
  · have hsame : u.out = s.out := exec_out_of_not_emits (Bool.eq_false_iff.2 hi) (s := s.accepting) hs hu
    obtain rfl : emitted = [] := List.self_eq_append_right.1 (hsame.symm.trans hout)
    cases hv

end Sys2Proof.Machine
end

section
/-! PROOFS. The statements of the bit packer (spec/46_bit_packer.md R130 to R133; 30_encoding.md R85, R86): PutBit on any bounded accumulator, what
FlushPartial makes of the bits after the last complete byte, and what PACK leaves at the end of a pass and at a byte without a code. -/

namespace Sys2Proof.Machine

open Sys2Proof

/-! ### PutBit (R131) -/

@[simp] theorem bitByte_toNat (x : Bool) : (bitByte x).toNat = x.toNat := by cases x <;> rfl

theorem accN_lt_seven {s : State} (hn : s.accN ≠ 7) : s.accN.toNat < 7 := by bv_omega

/-- Below seven bits the shift loses nothing. -/
theorem shiftIn_toNat {s : State} (h : s.AccBounded) (x : Bool) (hn : s.accN ≠ 7) :
    (2 * s.acc + bitByte x).toNat = 2 * s.acc.toNat + x.toNat := by
  have hacc : s.acc.toNat < 2 ^ 6 := Nat.lt_of_lt_of_le h (Nat.pow_le_pow_right Nat.two_pos (Nat.le_of_lt_succ (accN_lt_seven hn)))
  have hx := x.toNat_le
  simp
  omega

theorem putBit_fills {s : State} (x : Bool) (hn : s.accN ≠ 7) :
    s.putBit x = .accepted { s with acc := 2 * s.acc + bitByte x, accN := s.accN + 1 } := if_neg hn

/-- The byte that the eighth bit completes, spelled from the accumulator. -/
theorem shiftIn_eq_ofNat (acc : Byte) (x : Bool) : 2 * acc + bitByte x = BitVec.ofNat 8 (2 * acc.toNat + x.toNat) := by
  simp [BitVec.toNat_eq]

/-- Settles O31: below seven bits the shift stays within ACC_N bits; at seven the sink's answer decides. -/
theorem putBitFillsThenEmits : Obligations.PutBitFillsThenEmits := by
  intro s x hb
  refine ⟨fun hn => ⟨_, putBit_fills x hn, ?_, shiftIn_toNat hb x hn, hb.shift x hn, rfl⟩, fun hn hp ha => ?_, fun hn hp hf => ?_⟩
  · have := accN_lt_seven hn
    show (s.accN + 1).toNat = s.accN.toNat + 1
    bv_omega
  · rw [State.putBit, if_pos hn, emit_of_answer_ok hp _ ha, shiftIn_eq_ofNat]
    rfl
  · rw [State.putBit, if_pos hn, emit_of_answer_fail hp _ hf]
    rfl

/-! ### The partial byte (R85, R86, R132) -/

theorem packBytes_append (n : Nat) {bits : List Bool} (h : bits.length = 8 * n) (more : List Bool) :
    packBytes (bits ++ more) = packBytes bits ++ packBytes more := by
  induction n generalizing bits with
  | zero =>
    obtain rfl := List.length_eq_zero_iff.1 h
    rfl
  | succ n ih =>
    have hg : (bits.take 8).length = 8 := by simp; omega
    rw [← List.take_append_drop 8 bits, List.append_assoc, packBytes_group hg, packBytes_group hg, ih (by simp; omega), List.cons_append]

/-- Fewer than eight bits make one byte, with zero bits below them (R86). -/
theorem packBytes_short {bits : List Bool} (hne : bits ≠ []) (h : bits.length < 8) :
    packBytes bits = [byteOfBits (bits ++ List.replicate (8 - bits.length) false)] := by
  match bits, hne, h with
  | [_], _, _ | [_, _], _, _ | [_, _, _], _, _ | [_, _, _, _], _, _ | [_, _, _, _, _], _, _ | [_, _, _, _, _, _], _, _
  | [_, _, _, _, _, _, _], _, _ => rfl

theorem bitsValue_append_zeros (bits : List Bool) (n : Nat) : bitsValue (bits ++ List.replicate n false) = bitsValue bits * 2 ^ n := by
  induction n with
  | zero => simp
  | succ n ih => rw [List.replicate_succ', ← List.append_assoc, bitsValue_concat, ih, Nat.pow_succ, Bool.toNat_false]; ring

/-- Filling a byte up with zero bits is shifting it. -/
theorem byteOfBits_append_zeros (bits : List Bool) (n : Nat) :
    byteOfBits (bits ++ List.replicate n false) = BitVec.ofNat 8 (bitsValue bits) <<< n := by
  apply BitVec.eq_of_toNat_eq
  simp [byteOfBits, bitsValue_append_zeros, Nat.shiftLeft_eq]

theorem length_restBits (bits : List Bool) : (restBits bits).length = bits.length % 8 := by simp [restBits]; omega

/-- The bytes of a payload are the complete ones and what the bits after them make. -/
theorem packBytes_eq (bits : List Bool) : packBytes bits = fullBytes bits ++ packBytes (restBits bits) := by
  rw [fullBytes_eq, restBits, ← packBytes_append (bits.length / 8) (by simp; omega), List.take_append_drop]

/-- A payload of whole bytes. -/
theorem packBytes_of_whole {bits : List Bool} (h : bits.length % 8 = 0) : restBits bits = [] ∧ packBytes bits = fullBytes bits := by
  have hrest : restBits bits = [] := List.length_eq_zero_iff.1 ((length_restBits bits).trans h)
  exact ⟨hrest, by rw [packBytes_eq, hrest]; exact List.append_nil _⟩

/-- A payload with a partial byte: the accumulator shifted up (R132). -/
theorem packBytes_of_partial {bits : List Bool} (h : bits.length % 8 ≠ 0) :
    packBytes bits = fullBytes bits ++ [BitVec.ofNat 8 (bitsValue (restBits bits)) <<< (8 - bits.length % 8)] := by
  have hlen := length_restBits bits
  rw [packBytes_eq, packBytes_short (by rintro hnil; simp [hnil] at hlen; omega) (by omega), byteOfBits_append_zeros, hlen]

theorem div_eight_le_length_packBytes (bits : List Bool) : bits.length / 8 ≤ (packBytes bits).length := by
  simp [packBytes_eq bits]

/-- The bits after the last complete byte fit the accumulator. -/
theorem ofNat_bitsValue_restBits_toNat (bits : List Bool) : (BitVec.ofNat 8 (bitsValue (restBits bits))).toNat = bitsValue (restBits bits) := by
  have hpow : 2 ^ (restBits bits).length ≤ 2 ^ 8 := Nat.pow_le_pow_right Nat.two_pos (by rw [length_restBits]; omega)
  exact Nat.mod_eq_of_lt ((bitsValue_lt _).trans_le hpow)

theorem ofNat_length_mod_eight_toNat (bits : List Bool) : (BitVec.ofNat 3 (bits.length % 8)).toNat = bits.length % 8 := Nat.mod_mod _ 8

/-! ### The token after the bytes -/

section loop
variable {s : State} {bits : List Bool} {ts : List Token} (hp : s.pace = none)
include hp

/-- FlushPartial leaves the whole payload in OUT and the accumulator empty (R132). -/
theorem flushPartial_packed (ha : s.Accepts (packBytes bits).length) : flushPartial (s.packed bits) = .ret (s.offered (packBytes bits)).clearAcc := by
  have haccN : (s.packed bits).accN.toNat = bits.length % 8 := ofNat_length_mod_eight_toNat bits
  have hn : (s.packed bits).accN = 0 ↔ bits.length % 8 = 0 := by rw [BitVec.toNat_eq, haccN]; rfl
  by_cases h : bits.length % 8 = 0
  · obtain ⟨hrest, hbytes⟩ := packBytes_of_whole h
    rw [flushPartial, if_pos (hn.2 h), hbytes, State.packed, hrest, h]
    rfl
  · have hbytes := packBytes_of_partial h
    have hlast : s.answerAt (bits.length / 8) = some .ok := ha _ (by simp [hbytes])
    rw [flushPartial, if_neg (mt hn.1 h), emit_of_answer_ok (s := s.packed bits) hp _ ((answerAt_packed s bits).trans hlast), haccN,
      hbytes, ← State.offered_append]
    rfl

theorem packLoop_flushes (hq : s.inq = .endOfPass :: ts) (ha : s.Accepts (packBytes bits).length) :
    packLoop (s.packed bits) = .ret (State.offered { s with inq := ts } (packBytes bits)).clearAcc := by
  rw [packLoop, show (s.packed bits).inq = .endOfPass :: ts from hq]
  exact overTokens_endOfPass_stop (s := s.packed bits) hp (congrArg LoopStep.stop (flushPartial_packed (s := { s with inq := ts }) hp ha))

/-- A byte without a code ends the loop with the bits before it where they are (R133). -/
theorem packLoop_codeMiss {b : Byte} (hc : s.codeLenOf b = 0) (hq : s.inq = .byte b :: ts) :
    packLoop (s.packed bits) = .raised .codeMiss b ((s.readIn 1 ts).packed bits) := by
  rw [packLoop, show (s.packed bits).inq = .byte b :: ts from hq]
  exact overTokens_byte_stop (s := s.packed bits) hp (if_pos hc)

end loop

/-! ### The command (R130) -/

/-- What PACK has done when it comes to the token after the bytes, with a sink that accepts the complete bytes. -/
theorem exec_pack_reads {s : State} {bytes : List Byte} {ts : List Token} (hs : s.Ready) (hc : ∀ c ∈ bytes, s.codeLenOf c ≠ 0)
    (hq : s.inq = bytes.map .byte ++ ts) (ha : s.Accepts ((s.payloadBits bytes).length / 8)) : exec .pack s = settle 0x60 (packLoop
      (((s.accept 0x60 (.enter .pack) []).clearAcc.readIn bytes.length ts).packed (s.payloadBits bytes))) := by
  rw [exec_pack_ready hs]
  refine congrArg (settle 0x60) (packLoop_packed (s := (s.accept 0x60 (.enter .pack) []).clearAcc) (bits := []) hs.2.2 bytes hc hq ?_)
  rw [List.length_nil, Nat.zero_add]
  exact ha

/-- What PACK leaves when it completes (R93). -/
theorem complete_offered (s : State) (n : Nat) (rest : List Token) (payload : List Byte) :
    State.complete (State.offered { (s.accept 0x60 (.enter .pack) []).clearAcc.readIn n (.endOfPass :: rest) with inq := rest } payload).clearAcc =
      { s.completed with
        acc := 0, accN := 0, inq := rest, inCount := BitVec.ofNat 32 n
        sink := s.sink.drop payload.length, out := s.out ++ payload, outCount := BitVec.ofNat 32 payload.length } := by
  simp [State.offered, State.complete, State.completed, State.readIn, State.accept, State.clearAcc]

/-- What PACK leaves when it raises an error after these bits (R150, R152). -/
theorem raiseError_after_packed (s : State) (bits : List Bool) (n : Nat) (rest : List Token) (e : ErrorKind) (info : Byte) :
    State.raiseError (((s.accept 0x60 (.enter .pack) []).clearAcc.readIn n rest).packed bits) 0x60 e info =
      { s.failedWith 0x60 e info with
        acc := BitVec.ofNat 8 (bitsValue (restBits bits)), accN := BitVec.ofNat 3 (bits.length % 8), inq := rest, inCount := BitVec.ofNat 32 n
        sink := s.sink.drop (bits.length / 8), out := s.out ++ fullBytes bits, outCount := BitVec.ofNat 32 (bits.length / 8) } := by
  simp [State.packed, State.offered, State.raiseError, State.failedWith, State.readIn, State.accept, State.clearAcc]

/-- Settles O32: PACK comes to the `End` with the complete bytes out, and FlushPartial emits the partial one. -/
theorem packEmitsPayload : Obligations.PackEmitsPayload := by
  intro s bytes rest hs hc hq ha
  rw [exec_pack_reads hs hc hq (ha.mono (div_eight_le_length_packBytes _)),
    packLoop_flushes (s := (s.accept 0x60 (.enter .pack) []).clearAcc.readIn bytes.length (.endOfPass :: rest)) hs.2.2 rfl ha,
    settle_ret_free _ (by exact hs.2.2), complete_offered]

/-- Settles O33: PACK comes to the byte without a code with the bits before it packed, and raises there. -/
theorem packCodeMiss : Obligations.PackCodeMiss := by
  intro s bytes b rest hs hc hb hq ha
  rw [exec_pack_reads hs hc hq ha,
    packLoop_codeMiss (s := (s.accept 0x60 (.enter .pack) []).clearAcc.readIn bytes.length (.byte b :: rest)) hs.2.2 hb rfl,
    settle_raised_free _ _ _ (by exact hs.2.2), State.readIn_readIn, raiseError_after_packed]
  exact ⟨_, rfl, ofNat_length_mod_eight_toNat _, ofNat_bitsValue_restBits_toNat _, rfl⟩

end Sys2Proof.Machine
end

section
/-! PROOFS. UNPACK over a whole pass (spec/47_bit_unpacker.md R134 to R136): the walk comes to the `End`, where CUR differs from ROOT exactly when the
walk stands below the root.

The idea: a node index holds one tree only, so a subtree with fewer internal nodes than the tree at ROOT stands at another index. -/

namespace Sys2Proof.Machine

open Sys2Proof

/-! ### Below the root (R136) -/

/-- A node index holds one tree at most. -/
theorem State.Denotes.unique {s : State} {t t' : CodeTree} {n : Idx} (h : s.Denotes t n) (h' : s.Denotes t' n) : t = t' := by
  induction t generalizing t' n with
  | leaf v =>
    obtain rfl : n = leafSlot v := h
    cases t' with
    | leaf u => rw [leafSlot_inj.1 h']
    | node l' r' =>
      obtain ⟨j, hj, -⟩ := h'
      simp at hj
  | node l r ihl ihr =>
    obtain ⟨j, hj, -, hl, hr⟩ := h
    cases t' with
    | leaf u =>
      obtain rfl : n = leafSlot u := h'
      simp at hj
    | node l' r' =>
      obtain ⟨j', hj', -, hl', hr'⟩ := h'
      obtain rfl : j = j' := Option.some.inj (hj.symm.trans hj')
      rw [ihl hl hl', ihr hr hr']

/-- The walk stands at the root, or at a smaller subtree below it. -/
def WalkPoint.Within (tree : CodeTree) (w : WalkPoint) : Prop :=
  w = .start tree ∨ (w.mid = true ∧ w.sub.internals < tree.internals)

theorem WalkPoint.Within.internals_le {tree : CodeTree} {w : WalkPoint} (h : w.Within tree) : w.sub.internals ≤ tree.internals := by
  rcases h with rfl | ⟨-, hlt⟩
  · exact le_rfl
  · exact hlt.le

theorem CodeTree.internals_child_lt (l r : CodeTree) (x : Bool) : (if x then r else l).internals < (CodeTree.node l r).internals := by
  cases x <;> simp [CodeTree.internals]

theorem WalkPoint.Within.step {tree : CodeTree} {w : WalkPoint} (h : w.Within tree) (x : Bool) : (w.step tree x).2.Within tree := by
  cases hw : w.sub with
  | leaf v =>
    rw [WalkPoint.step, hw]
    exact h
  | node l r =>
    cases hd : if x then r else l with
    | leaf v =>
      rw [WalkPoint.step_leaf tree x hw hd]
      exact .inl rfl
    | node l' r' =>
      rw [WalkPoint.step_node tree x hw hd]
      have hle := h.internals_le
      have hlt := CodeTree.internals_child_lt l r x
      rw [hw] at hle
      rw [hd] at hlt
      exact .inr ⟨rfl, hlt.trans_le hle⟩

theorem WalkPoint.Within.walk {tree : CodeTree} {w : WalkPoint} (h : w.Within tree) (bits : List Bool) : (w.walk tree bits).2.Within tree := by
  induction bits generalizing w with
  | nil => exact h
  | cons x bits ih => exact ih (h.step x)

/-- CUR is ROOT exactly when the walk stands at the root. -/
theorem State.WalksAt.cur_bne_root {s : State} {tree : CodeTree} {w : WalkPoint} (h : s.WalksAt tree w) (hw : w.Within tree) :
    (s.cur != s.root) = w.mid := by
  rcases hw with rfl | ⟨hmid, hlt⟩
  · rw [h.cur]
    exact bne_self_eq_false _
  · rw [hmid, bne_iff_ne]
    intro hroot
    have hsub : s.Denotes w.sub s.root := hroot ▸ h.sub
    exact absurd hlt (by simp [hsub.unique h.tree.2.2])

/-- Whether the payload leaves the walk below the root. -/
theorem CodeTree.midwalk_eq_walk (tree : CodeTree) (payload : List Byte) :
    (tree.unpacked payload).2 = ((WalkPoint.start tree).walk tree (bitsOfBytes payload)).2.mid :=
  congrArg Prod.snd ((WalkPoint.start tree).walk_eq tree (bitsOfBytes payload)).1

/-- The bits since the last leaf. -/
theorem CodeTree.pending_eq_walk (tree : CodeTree) (payload : List Byte) :
    tree.pending payload = ((WalkPoint.start tree).walk tree (bitsOfBytes payload)).2.path :=
  ((WalkPoint.start tree).walk_eq tree (bitsOfBytes payload)).2

/-- The walk that the payload leaves at the root has no bit since the last leaf. -/
theorem CodeTree.pending_eq_nil {tree : CodeTree} {payload : List Byte} (h : (tree.unpacked payload).2 = false) : tree.pending payload = [] := by
  rw [tree.midwalk_eq_walk] at h
  rw [tree.pending_eq_walk]
  rcases WalkPoint.Within.walk (w := .start tree) (.inl rfl) (bitsOfBytes payload) with hroot | ⟨hbelow, -⟩
  · rw [hroot]
    rfl
  · rw [h] at hbelow
    cases hbelow

/-! ### The command (R134) -/

/-- UNPACK's loop at the `End` of a pass. -/
theorem unpackLoop_endOfPass {s : State} {ts : List Token} (hp : s.pace = none) (hq : s.inq = .endOfPass :: ts) :
    unpackLoop s = .ret { s with inq := ts, midwalk := s.cur != s.root } := by
  rw [unpackLoop, hq]
  exact overTokens_endOfPass_stop hp rfl

/-- UNPACK's body over a whole pass. -/
theorem unpackBody_walks {s : State} {tree : CodeTree} {payload : List Byte} {rest : List Token} (hp : s.pace = none) (h : s.HasTree tree)
    (hq : s.inq = passOf payload rest) (ha : s.Accepts (tree.unpacked payload).1.length) : unpackBody s = .ret
      { (s.readIn payload.length rest).offered (tree.unpacked payload).1 with
        cur := s.nodeAt (tree.pending payload), midwalk := (tree.unpacked payload).2 } := by
  have hstart := walksAt_start (s := { s with cur := s.root }) (h.congr rfl rfl) rfl
  rw [tree.unpacked_eq_walk] at ha ⊢
  obtain ⟨hwalks, hat⟩ := unpackLoop_walks (ts := .endOfPass :: rest) (by exact hp) hstart payload hq ha
  have hmid := hat.cur_bne_root (WalkPoint.Within.walk (.inl rfl) _)
  rw [unpackBody_of_hasTree h, hwalks, unpackLoop_endOfPass (by exact hp) rfl, hmid, ← tree.midwalk_eq_walk, tree.pending_eq_walk]
  rfl

/-- Settles O34: the walk of the tree comes to the `End` (`unpackBody_walks`), and MIDWALK is 0 only where CUR is ROOT. -/
theorem unpackWalksTree : Obligations.UnpackWalksTree := by
  intro s tree payload rest hs h hq ha
  have hbody := unpackBody_walks (s := s.accept 0x70 (.enter .unpack) []) hs.2.2 (h.congr rfl rfl) hq ha
  refine ⟨_, by rw [exec_unpack_ready hs, hbody]; exact settle_ret_free _ hs.2.2, rfl, fun hmid => ?_, rfl, ?_⟩
  · exact congrArg s.nodeAt (CodeTree.pending_eq_nil hmid)
  · simp [State.complete, State.completed, State.offered, State.readIn, State.accept]

end Sys2Proof.Machine
end

section
/-! PROOFS. UNPACK and DECOMPRESS without a tree (spec/47_bit_unpacker.md R138; 48_composite.md R141): which errors the bodies of DECOMPRESS raise,
whatever the pace, and that none of them records one.

The idea: TREE_DESERIALIZE returns with EMPTY_ART set or with the slot of its first TAG_INT in ROOT, so UNPACK's body runs on a ROOT that is not NIL. -/

namespace Sys2Proof.Machine

open Sys2Proof

/-! ### The errors of a body (R150, R158) -/

/-- The body raises only one of these errors, and returns in a state with P. -/
def Run.Raises (errs : List ErrorKind) (P : State → Prop) : Run → Prop
  | .ret s => P s
  | .raised e _ _ => e ∈ errs
  | .wait _ _ _ | .reset _ | .stuck _ => True

/-- The same of one iteration of a loop, which goes on with a value with J. -/
def LoopStep.Raises {σ : Type} (J : σ → Prop) (errs : List ErrorKind) (P : State → Prop) : LoopStep σ → Prop
  | .more x _ => J x
  | .stop r => r.Raises errs P

section raises
variable {errs errs' : List ErrorKind} {P Q : State → Prop} {r : Run} {c : Stage} {op : Byte} {t : State}

theorem Run.Raises.mono (h : r.Raises errs P) (hsub : errs ⊆ errs') : r.Raises errs' P := by
  cases r with
  | raised e info s => exact hsub h
  | ret s => exact h
  | wait | reset | stuck => trivial

/-- A token loop raises what its iterations raise. -/
theorem raises_overTokens {σ : Type} {pos : σ → Pos} {body : σ → Token → State → LoopStep σ} {J : σ → Prop}
    (hbody : ∀ x tok s, J x → (body x tok s).Raises J errs P) (ts : List Token) (x : σ) {s : State} (h : J x) :
    (overTokens pos body ts x s).Raises errs P := by
  induction ts generalizing x s with
  | nil => trivial
  | cons tok ts ih =>
    have hstep := hbody x tok (s.consume tok ts) h
    cases hh : s.held with
    | true =>
      rw [overTokens_held hh]
      trivial
    | false =>
      cases hb : body x tok (s.consume tok ts) with
      | more x' s' =>
        rw [hb] at hstep
        rw [overTokens_more hh hb]
        exact ih x' hstep
      | stop r =>
        rw [hb] at hstep
        rw [overTokens_stop hh hb]
        exact hstep

/-- The body, begun without an error, records none itself and raises only one of these. -/
structure Run.ErrsWithin (r : Run) (errs : List ErrorKind) (P : State → Prop) : Prop where
  clean : r.RunsTo (·.err = .none)
  raises : r.Raises errs P

/-- One more stage. -/
theorem Run.ErrsWithin.andThen (h : r.ErrsWithin errs P)
    (hbody : ∀ s, s.err = .none → P s → (stageBody c s.tick).ErrsWithin errs Q) : (r.andThen c).ErrsWithin errs Q := by
  obtain ⟨hclean, hraises⟩ := h
  cases r with
  | ret s =>
    rw [Run.andThen_ret]
    split
    · exact ⟨hclean, trivial⟩
    · exact hbody s hclean hraises
  | raised e info s => exact ⟨hclean, hraises⟩
  | wait pos todo s => exact ⟨hclean, trivial⟩
  | reset s => exact hclean.elim
  | stuck f => exact ⟨trivial, trivial⟩

/-- What the command leaves in ERR. -/
theorem Run.ErrsWithin.err_of_settle (h : r.ErrsWithin errs P) (ht : settle op r = .next t) :
    t.err = .none ∨ ∃ e ∈ errs, ∃ info, t.err = ⟨e.code, op, info, e.cls⟩ := by
  obtain ⟨hclean, hraises⟩ := h
  rcases settle_next.1 ht with ⟨s, rfl, -, rfl⟩ | ⟨s, rfl, -, rfl⟩ | ⟨e, info, s, rfl, -, rfl⟩ | ⟨e, info, s, rfl, -, rfl⟩ |
    ⟨pos, todo, s, rfl, rfl⟩ | rfl
  · exact .inl hclean
  · exact .inl hclean
  · exact .inr ⟨e, hraises, info, rfl⟩
  · exact .inl hclean
  · exact .inl hclean
  · exact hclean.elim

end raises

/-! ### UNPACK's loop (R135, R136) -/

theorem walkBits_raises (b : Byte) (n : Nat) (s : State) : (walkBits b n s).Raises (fun _ => True) [.srcIo, .snkIo] fun _ => True := by
  induction n generalizing s with
  | zero => trivial
  | succ n ih =>
    simp only [walkBits]
    split
    · trivial
    · split
      · split
        next t _ => exact ih t
        next => exact .tail _ (.head _)
        next => trivial
      · exact ih _

theorem unpackToken_raises (tok : Token) (s : State) : (unpackToken () tok s).Raises (fun _ => True) [.srcIo, .snkIo] fun _ => True := by
  cases tok with
  | fail => exact .head _
  | endOfPass => trivial
  | byte b => exact walkBits_raises b 8 s

theorem unpackLoop_raises (s : State) : (unpackLoop s).Raises [.srcIo, .snkIo] fun _ => True :=
  raises_overTokens (J := fun _ => True) (fun _ tok u _ => unpackToken_raises tok u) s.inq () trivial

/-- The states in which DECOMPRESS's second part does not ask for a tree, or has one (R138, R141). -/
def State.Unpackable (s : State) : Prop := s.emptyArt = true ∨ s.root ≠ Config.nil

theorem unpackUnlessEmptyBody_errsWithin {s : State} (h : s.Unpackable) (he : s.err = .none) :
    (unpackUnlessEmptyBody s).ErrsWithin (errorsOf .decompress) fun _ => True := by
  unfold unpackUnlessEmptyBody
  split
  next => exact ⟨he, trivial⟩
  next hart =>
    have hroot : s.root ≠ Config.nil := h.resolve_left hart
    refine ⟨(unpackBody_keeps s).imp fun t ht => (congrArg State.err ht :).trans he, ?_⟩
    rw [unpackBody, if_neg hroot]
    exact (unpackLoop_raises _).mono (by decide)

/-! ### ParseHeader (R125 to R127) -/

/-- The root read, if one is, is not NIL. -/
def ParsePoint.Rooted : ParsePoint → Prop
  | .first => True
  | .tag r | .value r => r ≠ Config.nil

/-- ParseHeader raises only what R158 lists for TREE_DESERIALIZE, and goes on with a root that is not NIL. -/
abbrev ParseRaises : LoopStep ParsePoint → Prop := LoopStep.Raises ParsePoint.Rooted (errorsOf .treeDeserialize) State.Unpackable

theorem parseEnd_raises {r : Idx} (hr : r ≠ Config.nil) (n : Idx) (s : State) : ParseRaises (parseEnd r n s) := by
  unfold parseEnd finishHeader
  split
  · split
    · split
      · trivial
      · exact .inr hr
    · exact hr
  · split
    · exact hr
    · trivial

/-- Placing a node, which at first is the root. -/
theorem parseNode_raises {p : ParsePoint} {n : Idx} (hp : p.Rooted) (hn : p.isFirst = true → n ≠ Config.nil) (s : State) :
    ParseRaises (parseNode p n s) := by
  cases p with
  | first => exact parseEnd_raises (hn rfl) n s
  | tag r | value r =>
    simp only [parseNode]
    split
    · exact parseEnd_raises hp n _
    · trivial

theorem parseInternal_raises {p : ParsePoint} (hp : p.Rooted) (s : State) : ParseRaises (parseInternal p s) := by
  unfold parseInternal
  split
  next => show ErrorKind.treeTooLarge ∈ errorsOf .treeDeserialize; decide
  next hslot =>
    split
    · exact parseNode_raises hp (fun _ => hslot) _
    · trivial

theorem parseTag_raises {p : ParsePoint} (hp : p.Rooted) (tag : Byte) (s : State) : ParseRaises (parseTag p tag s) := by
  unfold parseTag
  split
  · exact parseInternal_raises hp s
  · split
    · cases p with
      | first => show ErrorKind.degenerate ∈ errorsOf .treeDeserialize; decide
      | tag r | value r => exact hp
    · show ErrorKind.badTag ∈ errorsOf .treeDeserialize; decide

theorem parseToken_raises {p : ParsePoint} (hp : p.Rooted) (tok : Token) (s : State) : ParseRaises (parseToken p tok s) := by
  cases tok with
  | fail => show ErrorKind.srcIo ∈ errorsOf .treeDeserialize; decide
  | endOfPass =>
    cases p with
    | first => exact .inl rfl
    | tag r | value r => show ErrorKind.truncated ∈ errorsOf .treeDeserialize; decide
  | byte b =>
    cases p with
    | first | tag r => exact parseTag_raises hp b s
    | value r => exact parseNode_raises hp nofun s

theorem treeDeserializeBody_errsWithin {s : State} (he : s.err = .none) :
    (treeDeserializeBody s).ErrsWithin (errorsOf .treeDeserialize) State.Unpackable :=
  ⟨(treeDeserializeBody_keeps s).imp fun _ ht => (congrArg State.err ht :).trans he,
    raises_overTokens (J := ParsePoint.Rooted) (fun _ tok u hp => parseToken_raises hp tok u) _ .first trivial⟩

/-! ### The commands (R138, R141) -/

/-- R158 for DECOMPRESS's body: E_NO_TREE is not on its list. -/
theorem decompressBody_errsWithin {s : State} (he : s.err = .none) :
    (decompressBody s).ErrsWithin (errorsOf .decompress) fun _ => True := by
  obtain ⟨hclean, hraises⟩ := treeDeserializeBody_errsWithin he
  exact Run.ErrsWithin.andThen ⟨hclean, hraises.mono (by decide)⟩ fun u he hu => unpackUnlessEmptyBody_errsWithin hu he

theorem exec_unpack_without_tree {s : State} (hs : s.Ready) (hr : s.root = Config.nil) :
    exec .unpack s = .next (s.failedWith 0x70 .noTree 0) := by
  rw [exec_unpack_ready hs, unpackBody, if_pos (by exact hr)]
  exact settle_raised_free _ _ _ hs.2.2

/-- What DECOMPRESS leaves in ERR, at any pace. -/
theorem exec_decompress_err {s t : State} (hq : s.seq = .idle) (he : s.err = .none) (ht : exec .decompress s = .next t) :
    t.err = .none ∨ ∃ e ∈ errorsOf .decompress, ∃ info, t.err = ⟨e.code, 0x81, info, e.cls⟩ := by
  have hidle : s.errSet = false := State.errSet_eq_false_iff.2 (by rw [he]; rfl)
  rcases command_next.1 ht with ⟨hbusy | herr, -⟩ | ⟨-, -, -, rfl⟩ | ⟨-, -, -, hset⟩
  · rw [State.busy_idle hq] at hbusy
    cases hbusy
  · rw [hidle] at herr
    cases herr
  · exact .inl he
  · exact (decompressBody_errsWithin (by exact he)).err_of_settle hset

/-- Settles O35: without a tree UNPACK raises at once; DECOMPRESS raises only the errors of R158, and E_NO_TREE is none of them. -/
theorem unpackWithoutTree : Obligations.UnpackWithoutTree := by
  refine ⟨fun s hs hr => exec_unpack_without_tree hs hr, fun s t hq he ht => ?_⟩
  have hother : ∀ e ∈ errorsOf .decompress, e.code ≠ 0x31 := by decide
  rcases exec_decompress_err hq he ht with hnone | ⟨e, hmem, info, herr⟩
  · rw [hnone]
    decide
  · rw [herr]
    exact hother e hmem

end Sys2Proof.Machine
end

section
/-! PROOFS. The hardware reset input and the recorded error (spec/70_reset_and_hazards.md R166 to R168; 60_exceptions.md R153). -/

namespace Sys2Proof.Machine

open Sys2Proof

/-! ### The reset input (R166, R168) -/

/-- Every register of a block at its reset values reads its reset value. -/
theorem readReg_toReset (s : State) (r : Reg) : s.toReset.readReg r = State.reset.readReg r := by cases r <;> rfl

/-- While the reset input is asserted an action finds the reset values (R166; log 10). -/
theorem step_asserted {s : State} {a : HostAction} {rest : List HostAction} (hr : s.inReset = true) (hh : s.host = a :: rest) :
    step s = actInReset a (State.toReset { s with host := rest }) :=
  (step_action hh).trans (hostAct_asserted (s := { s with host := rest }) hr a)

/-- Settles O2: each action while the input is asserted, and the two that move it. -/
theorem hardResetFromAnyState : Obligations.HardResetFromAnyState := by
  intro s rest held
  have hheld : s.inReset = true → State.toReset { s with host := rest } = held true := fun hr => by
    simp only [held, ← hr]
    rfl
  refine ⟨fun hh => ?_, fun a v hr hh => ?_, fun r hr hh => ?_, fun words hr hh => ?_, fun hr hh hrest => ?_, fun hr hh => ?_,
    fun hr hh => step_released hr hh⟩
  · cases hr : s.inReset with
    | false => exact step_released hr hh
    | true => rw [step_asserted hr hh, hheld hr]; rfl
  · rw [step_asserted hr hh, hheld hr]; rfl
  · rw [step_asserted hr hh, ← hheld hr, ← readReg_toReset { s with host := rest } r]
    exact congrArg Host.Outcome.next (memRead_exact (.inl rfl))
  · rw [step_asserted hr hh, hheld hr]; rfl
  · subst hrest
    rw [step_no_action hh, runFree_asserted hr, ← hheld hr, ← hh]
  · rw [step_asserted hr hh, hheld hr]; rfl

/-! ### A recorded error (R153) -/

/-- ERR stays as it was or is cleared. -/
def State.ErrStays (s t : State) : Prop := t.err = s.err ∨ t.err = .none

theorem errStays_of_next {s u t : State} (h : (.next u : Host.Outcome State Fault Refusal) = .next t) (he : s.ErrStays u) : s.ErrStays t :=
  Host.Outcome.next.inj h ▸ he

/-- SOFT_RESET's and CLEAR_ERR's body, or the wait before it: the body clears ERR. -/
theorem settle_enter_err {op : Byte} {c : Stage} (hc : c = .softReset ∨ c = .clearErr) {b : Bool} {s u v t : State} (hu : u.err = s.err)
    (ht : settle op (if b then .wait (.enter c) [] u else stageBody c v) = .next t) : s.ErrStays t := by
  cases b with
  | true => exact errStays_of_next ht (.inl hu)
  | false =>
    rcases hc with rfl | rfl
    · exact errStays_of_next ht (.inr rfl)
    · refine errStays_of_next ht (.inr ?_)
      split <;> rfl

theorem exec_softReset_errStays {s t : State} (ht : exec .softReset s = .next t) : s.ErrStays t := by
  rw [exec_softReset] at ht
  split at ht
  · exact errStays_of_next ht (.inr rfl)
  · exact settle_enter_err (u := s.accept 0x01 (.enter .softReset) []) (v := (s.accept 0x01 (.enter .softReset) []).tick) (.inl rfl) rfl ht

theorem exec_clearErr_errStays {s t : State} (ht : exec .clearErr s = .next t) : s.ErrStays t := by
  rw [exec_clearErr] at ht
  split at ht
  · exact errStays_of_next ht (.inl rfl)
  · exact settle_enter_err (u := s.accept 0x02 (.enter .clearErr) []) (v := (s.accept 0x02 (.enter .clearErr) []).tick) (.inr rfl) rfl ht

/-- With an error recorded a word at CMD is dropped, or starts SOFT_RESET or CLEAR_ERR (R95). -/
theorem writeCmd_errStays {s t : State} (he : s.err.code ≠ 0) {w : Word} (ht : writeCmd w s = .next t) : s.ErrStays t := by
  by_cases hr : w = 0x00000001
  · rw [hr, writeCmd_softReset] at ht
    exact exec_softReset_errStays ht
  by_cases hc : w = 0x00000002
  · rw [hc, writeCmd_clearErr] at ht
    exact exec_clearErr_errStays ht
  obtain ⟨c, todo, heq⟩ := writeCmd_offers hr hc s
  rw [heq, command_rejected (.inr (State.errSet_eq_true_iff.2 he))] at ht
  exact errStays_of_next ht (.inl rfl)

/-- With an error recorded the engine has nothing to do but SOFT_RESET or CLEAR_ERR (`State.ErrHolds`). -/
theorem resume_errStays {s t : State} (h : s.ErrHolds) (he : s.err.code ≠ 0) (ht : s.resume = .next t) : s.ErrStays t := by
  rcases h he with hq | ⟨op, hq⟩ | ⟨op, hq⟩
  · rw [State.resume_idle hq] at ht
    exact errStays_of_next ht (.inl rfl)
  · rw [State.resume_running hq] at ht
    exact settle_enter_err (.inl rfl) rfl ht
  · rw [State.resume_running hq] at ht
    exact settle_enter_err (.inr rfl) rfl ht

theorem memWrite_errStays {s t : State} (he : s.err.code ≠ 0) {a : Offset} {v : Word} (ht : memWrite a v s = .next t) : s.ErrStays t := by
  unfold memWrite at ht
  split at ht
  · exact writeCmd_errStays he ht
  · exact errStays_of_next ht (.inl rfl)
  · exact errStays_of_next ht (.inl rfl)

theorem actOutOfReset_errStays {s t : State} (h : s.ErrHolds) (he : s.err.code ≠ 0) {a : HostAction} (ht : actOutOfReset a s = .next t) :
    s.ErrStays t := by
  cases a with
  | read off =>
    obtain ⟨w, d, heq⟩ := memRead_eq s off
    exact errStays_of_next ht (.inl (by rw [heq]))
  | write off v => exact memWrite_errStays he ht
  | withdraw => exact .inl (by rw [withdraw_next ht])
  | letRun pace => exact resume_errStays (s := { s with pace := pace }) h he ht
  | feed words => exact errStays_of_next ht (.inl rfl)
  | answer bits rest => exact errStays_of_next ht (.inl rfl)
  | assertReset => exact errStays_of_next ht (.inr rfl)
  | releaseReset => exact errStays_of_next ht (.inl rfl)

/-- While the reset input is asserted nothing is recorded. -/
theorem actInReset_err {a : HostAction} {s t : State} (ht : actInReset a s.toReset = .next t) : t.err = .none := by
  have hsame : ∀ u : State, u.err = .none → (.next u : Host.Outcome State Fault Refusal) = .next t → t.err = .none := fun u hu h =>
    Host.Outcome.next.inj h ▸ hu
  cases a with
  | read off =>
    obtain ⟨w, d, heq⟩ := memRead_eq s.toReset off
    exact hsame _ (by rw [heq]; rfl) ht
  | withdraw => rw [withdraw_next ht]; rfl
  | _ => exact hsame _ rfl ht

/-- Settles O10: host action by host action; only the bodies of SOFT_RESET and CLEAR_ERR write ERR while one is recorded. -/
theorem recordedErrorIsSticky : Obligations.RecordedErrorIsSticky := by
  intro s t h he ht
  cases hh : s.host with
  | nil =>
    rw [step_no_action hh] at ht
    cases hr : s.inReset with
    | true =>
      rw [runFree_asserted hr] at ht
      exact errStays_of_next ht (.inr rfl)
    | false =>
      rw [runFree_released hr] at ht
      exact resume_errStays (s := { s with pace := none }) h he ht
  | cons a rest =>
    cases hr : s.inReset with
    | true => exact .inr (actInReset_err (step_asserted hr hh ▸ ht))
    | false => exact actOutOfReset_errStays (s := { s with host := rest }) h he (step_released hr hh ▸ ht)

end Sys2Proof.Machine
end

section
/-! PROOFS. What the stages of a command leave alone and which errors they raise, one after another (spec/48_composite.md R139, R141;
60_exceptions.md R150, R158). -/

namespace Sys2Proof.Machine

open Sys2Proof

/-! ### Stages one after another -/

theorem Run.RunsTo.andThen {P : State → Prop} {r : Run} {c : Stage} (htick : ∀ s, P s → P s.tick)
    (hbody : ∀ s, P s → (stageBody c s).RunsTo P) (h : r.RunsTo P) : (r.andThen c).RunsTo P := by
  cases r with
  | ret s =>
    rw [Run.andThen_ret]
    split
    · exact h
    · exact hbody _ (htick s h)
  | _ => exact h

theorem Run.RunsTo.chain {P : State → Prop} {r : Run} (htick : ∀ s, P s → P s.tick) (todo : List Stage)
    (hbody : ∀ c ∈ todo, ∀ s, P s → (stageBody c s).RunsTo P) (h : r.RunsTo P) : (r.chain todo).RunsTo P := by
  induction todo generalizing r with
  | nil => exact h
  | cons c todo ih =>
    exact ih (fun d hd => hbody d (List.mem_cons_of_mem _ hd)) (h.andThen htick (hbody c List.mem_cons_self))

theorem runsTo_ofExcept {P : State → Prop} {x : Except Fault State} (h : ∀ t, x = .ok t → P t) : (Run.ofExcept x).RunsTo P := by
  cases x with
  | ok t => exact h t rfl
  | error f => trivial

/-! ### What the stages leave alone -/

theorem unpackUnlessEmptyBody_keeps (s : State) : (unpackUnlessEmptyBody s).RunsTo fun t => t.lessWalk = s.lessWalk := by
  unfold unpackUnlessEmptyBody
  split
  · rfl
  · exact unpackBody_keeps s

/-- DONE, ERR, the level of the reset input and the answer to later offers: no stage but SOFT_RESET's and CLEAR_ERR's writes them. -/
def State.steadyPart (s : State) := (s.controlPart, s.sinkRest)

theorem stageBody_keepsSteady {c : Stage} (hr : c ≠ .softReset) (hc : c ≠ .clearErr) (s : State) :
    (stageBody c s).RunsTo (·.steadyPart = s.steadyPart) := by
  cases c with
  | softReset => exact absurd rfl hr
  | clearErr => exact absurd rfl hc
  | nop => rfl
  | freqClear => rfl
  | freqCount => exact (freqCountBody_keeps s).imp fun _ ht => (congrArg State.steadyPart ht :)
  | heapBuild => exact (congrArg State.steadyPart (buildHeap_law s).1.lessTree :)
  | treeStep => exact runsTo_ofExcept fun _ ht => (congrArg State.steadyPart (treeStep_lessMerge ht) :)
  | treeBuild => exact runsTo_ofExcept fun _ ht => (congrArg State.steadyPart (treeBuild_lessTree ht) :)
  | codesDerive => exact runsTo_ofExcept fun _ ht => (congrArg State.steadyPart (deriveCodes_lessCodes ht) :)
  | treeSerialize => exact (treeSerializeBody_keeps s).imp fun _ ht => (congrArg State.steadyPart ht :)
  | treeDeserialize => exact (treeDeserializeBody_keeps s).imp fun _ ht => (congrArg State.steadyPart ht :)
  | pack => exact (packBody_keeps s).imp fun _ ht => (congrArg State.steadyPart ht :)
  | unpack => exact (unpackBody_keeps s).imp fun _ ht => (congrArg State.steadyPart ht :)
  | unpackUnlessEmpty => exact (unpackUnlessEmptyBody_keeps s).imp fun _ ht => (congrArg State.steadyPart ht :)
  | illegal op => rfl

/-- What no stage of COMPRESS writes (R139): CUR, EMPTY_ART and MIDWALK, DONE, ERR and the reset input, and the host's own fields. -/
def State.compressPart (s : State) :=
  (s.cur, s.emptyArt, s.midwalk, s.controlPart, s.rej, s.sinkRest, s.host, s.busData)

theorem compressStage_keeps {c : Stage} (hc : c ∈ Instr.plan .compress) (s : State) :
    (stageBody c s).RunsTo (·.compressPart = s.compressPart) := by
  obtain rfl | rfl | rfl | rfl | rfl | rfl | rfl : c = .freqClear ∨ c = .freqCount ∨ c = .heapBuild ∨ c = .treeBuild ∨ c = .codesDerive ∨
    c = .treeSerialize ∨ c = .pack := by simpa [Instr.plan, compressRest] using hc
  · rfl
  · exact (freqCountBody_keeps s).imp fun _ ht => (congrArg State.compressPart ht :)
  · exact (congrArg State.compressPart (buildHeap_law s).1.lessTree :)
  · exact runsTo_ofExcept fun _ ht => (congrArg State.compressPart (treeBuild_lessTree ht) :)
  · exact runsTo_ofExcept fun _ ht => (congrArg State.compressPart (deriveCodes_lessCodes ht) :)
  · exact (treeSerializeBody_keeps s).imp fun _ ht => (congrArg State.compressPart ht :)
  · exact (packBody_keeps s).imp fun _ ht => (congrArg State.compressPart ht :)

/-- The state less what the lifecycle and DECOMPRESS write (R141). -/
def State.lessDecompress (s : State) : State :=
  { s.lessRun with
    inq := [], out := [], sink := [], node := .fill 255 .clear, nextInt := 0, root := 0, heap := .fill 256 0, heapSize := 0, stack := [], cur := 0 }

theorem decompressStage_keeps {c : Stage} (hc : c ∈ Instr.plan .decompress) (s : State) :
    (stageBody c s).RunsTo (·.lessDecompress = s.lessDecompress) := by
  obtain rfl | rfl : c = .treeDeserialize ∨ c = .unpackUnlessEmpty := by simpa [Instr.plan, decompressRest] using hc
  · exact (treeDeserializeBody_keeps s).imp fun _ ht => (congrArg State.lessDecompress ht :)
  · exact (unpackUnlessEmptyBody_keeps s).imp fun _ ht => (congrArg State.lessDecompress ht :)

/-! ### The frames of the composites -/

/-- What the lifecycle and every stage of a command leave alone, the command leaves alone. -/
theorem command_keepsPart {α : Type} {F : State → α} {op : Byte} {c : Stage} {todo : List Stage} {s t : State} (hF : ∀ u, F u.lessRun = F u)
    (hbody : ∀ d ∈ c :: todo, ∀ u, (stageBody d u).RunsTo (F · = F u))
    (ht : command op c todo (fun u => (stageBody c u).chain todo) s = .next t) : F t = F s := by
  have hsame : ∀ u v : State, u.lessRun = v.lessRun → F u = F v := fun u v h => by rw [← hF u, h, hF v]
  rcases command_next.1 ht with ⟨-, rfl⟩ | ⟨-, -, -, rfl⟩ | ⟨-, -, -, hset⟩
  · exact hsame _ _ rfl
  · exact hsame _ _ rfl
  · have hrun := Run.RunsTo.chain (P := (F · = F (s.accept op (.enter c) todo).tick)) (fun u hu => (hsame u.tick u rfl).trans hu) todo
      (fun d hd u hu => (hbody d (List.mem_cons_of_mem _ hd) u).imp fun _ hv => hv.trans hu) (hbody c List.mem_cons_self _)
    obtain ⟨v, hv, htv⟩ := lessRun_of_settle hrun hset
    exact (hsame t v htv).trans (hv.trans (hsame _ s rfl))

/-- Settles O44: what each stage leaves alone (`compressStage_keeps`, `decompressStage_keeps`), the command leaves alone. -/
theorem compositeCommandFrames : Obligations.CompositeCommandFrames := by
  refine fun s t => ⟨fun h => ?_, fun h => ?_⟩
  · have hk := command_keepsPart (F := fun u => (u.cur, u.inReset, u.sinkRest, u.host, u.busData)) (fun _ => rfl)
      (fun c hc u => (compressStage_keeps hc u).imp fun v hv => by simp_all [State.compressPart, State.controlPart]) h
    simpa using hk
  · have hk := command_keepsPart (F := State.lessDecompress) (fun _ => rfl) (fun c hc u => decompressStage_keeps hc u) h
    exact (congrArg (fun u => { (u.withRun t).withMerge t with
      inq := t.inq, root := t.root, stack := t.stack, draws := u.draws, sink := t.sink, out := t.out, cur := t.cur }) hk :)

/-! ### The errors of each stage (R158) -/

/-- The errors a stage can raise. -/
def Stage.errors : Stage → List ErrorKind
  | .nop | .softReset | .clearErr | .freqClear | .heapBuild | .treeStep | .treeBuild | .codesDerive => []
  | .freqCount => errorsOf .freqCount
  | .treeSerialize => errorsOf .treeSerialize
  | .treeDeserialize => errorsOf .treeDeserialize
  | .pack => errorsOf .pack
  | .unpack | .unpackUnlessEmpty => errorsOf .unpack
  | .illegal _ => [.badCmd]

abbrev Run.RaisesOnly (r : Run) (errs : List ErrorKind) : Prop := r.Raises errs fun _ => True

theorem raises_ofExcept (x : Except Fault State) (errs : List ErrorKind) : (Run.ofExcept x).RaisesOnly errs := by cases x <;> trivial

theorem freqCountBody_raises (s : State) : (freqCountBody s).RaisesOnly (errorsOf .freqCount) := by
  refine raises_overTokens (J := fun _ => True) (fun _ tok u _ => ?_) s.inq () trivial
  cases tok with
  | fail => exact .head _
  | endOfPass => trivial
  | byte b =>
    simp only [countToken]
    split
    · exact .tail _ (.head _)
    · trivial

theorem serialLoop_raises (turns : Nat) (p : Option Idx) (s : State) : (serialLoop turns p s).RaisesOnly (errorsOf .treeSerialize) := by
  induction turns generalizing p s with
  | zero =>
    unfold serialLoop
    split <;> trivial
  | succ n ih =>
    unfold serialLoop
    split
    · trivial
    · dsimp only
      split
      · trivial
      · exact .head _
      · split
        · exact ih _ _
        · trivial

theorem treeSerializeBody_raises (s : State) : (treeSerializeBody s).RaisesOnly (errorsOf .treeSerialize) := by
  unfold treeSerializeBody
  split
  · trivial
  · exact serialLoop_raises _ _ _

theorem putBits_raises (b : Byte) (n : Nat) (s : State) : (putBits b n s).Raises (fun _ => True) (errorsOf .pack) fun _ => True := by
  induction n generalizing s with
  | zero => trivial
  | succ n ih =>
    unfold putBits
    split
    · exact ih _
    · exact .tail _ (.tail _ (.head _))
    · trivial

theorem packToken_raises (tok : Token) (s : State) : (packToken () tok s).Raises (fun _ => True) (errorsOf .pack) fun _ => True := by
  cases tok with
  | fail => exact .head _
  | endOfPass =>
    simp only [packToken, flushPartial]
    split
    · trivial
    · split
      · trivial
      · exact .tail _ (.tail _ (.head _))
      · trivial
  | byte b =>
    simp only [packToken]
    split
    · exact .tail _ (.head _)
    · exact putBits_raises _ _ _

theorem packBody_raises (s : State) : (packBody s).RaisesOnly (errorsOf .pack) :=
  raises_overTokens (J := fun _ => True) (fun _ tok u _ => packToken_raises tok u) s.inq () trivial

theorem unpackBody_raises (s : State) : (unpackBody s).RaisesOnly (errorsOf .unpack) := by
  unfold unpackBody
  split
  · exact .head _
  · exact (unpackLoop_raises _).mono (by decide)

theorem stageBody_raises (c : Stage) (s : State) : (stageBody c s).RaisesOnly c.errors := by
  cases c with
  | nop | clearErr | freqClear | heapBuild | softReset => trivial
  | freqCount => exact freqCountBody_raises s
  | treeStep | treeBuild | codesDerive => exact raises_ofExcept _ _
  | treeSerialize => exact treeSerializeBody_raises s
  | treeDeserialize =>
    have h := raises_overTokens (J := ParsePoint.Rooted) (fun _ tok u hp => parseToken_raises hp tok u) s.inq .first (pos := Pos.parse)
      (s := { s.discardTree with stack := [] }) trivial
    show (overTokens Pos.parse parseToken s.inq .first _).RaisesOnly _
    generalize overTokens Pos.parse parseToken s.inq .first { s.discardTree with stack := [] } = r at h ⊢
    cases r with
    | raised e info u => exact h
    | _ => trivial
  | pack => exact packBody_raises s
  | unpack => exact unpackBody_raises s
  | unpackUnlessEmpty =>
    show (unpackUnlessEmptyBody s).RaisesOnly _
    unfold unpackUnlessEmptyBody
    split
    · trivial
    · exact unpackBody_raises s
  | illegal op => exact .head _

theorem raises_chain {r : Run} {errs : List ErrorKind} (todo : List Stage) (hbody : ∀ c ∈ todo, c.errors ⊆ errs) (h : r.RaisesOnly errs) :
    (r.chain todo).RaisesOnly errs := by
  induction todo generalizing r with
  | nil => exact h
  | cons c todo ih =>
    refine ih (fun d hd => hbody d (List.mem_cons_of_mem _ hd)) ?_
    cases r with
    | ret s =>
      rw [Run.andThen_ret]
      split
      · trivial
      · exact (stageBody_raises c _).mono (hbody c List.mem_cons_self)
    | _ => exact h

/-! ### The error a command leaves (R150, R158) -/

/-- A run that only raises leaves an error as a raise does, or none. -/
theorem raised_of_settle {op : Byte} {errs : List ErrorKind} {r : Run} {P : State → Prop} {s t : State}
    (hclean : r.RunsTo (·.steadyPart = s.steadyPart))
    (hd : s.done = false) (he : s.err = .none) (hraises : r.Raises errs P) (ht : settle op r = .next t) (herr : t.err ≠ .none) :
    ∃ e ∈ errs, t.err.code = e.code ∧ t.err.cls = e.cls ∧ t.err.opcode = op ∧ t.seq = .idle ∧ t.done = false := by
  have hkept : ∀ u : State, u.steadyPart = s.steadyPart → u.err = .none ∧ u.done = false := fun u hu => by
    obtain ⟨⟨hdone, -, herr'⟩, -⟩ : (u.done = s.done ∧ u.inReset = s.inReset ∧ u.err = s.err) ∧ u.sinkRest = s.sinkRest := by
      simpa [State.steadyPart, State.controlPart] using hu
    exact ⟨herr'.trans he, hdone.trans hd⟩
  rcases settle_next.1 ht with ⟨u, rfl, -, rfl⟩ | ⟨u, rfl, -, rfl⟩ | ⟨e, info, u, rfl, -, rfl⟩ | ⟨e, info, u, rfl, -, rfl⟩ |
    ⟨pos, todo, u, rfl, rfl⟩ | rfl
  · exact absurd (hkept u hclean).1 herr
  · exact absurd (hkept u hclean).1 herr
  · exact ⟨e, hraises, rfl, rfl, rfl, rfl, (hkept u hclean).2⟩
  · exact absurd (hkept u hclean).1 herr
  · exact absurd (hkept u hclean).1 herr
  · exact hclean.elim

/-- A command of an idle block with no error, when each stage leaves DONE and ERR alone. -/
theorem command_error {op : Byte} {errs : List ErrorKind} {c : Stage} {todo : List Stage} {s t : State} (hq : s.seq = .idle) (he : s.err = .none)
    (hreset : ∀ d ∈ c :: todo, d ≠ .softReset ∧ d ≠ .clearErr)
    (hraises : ∀ u : State, u.err = .none → ∃ P, ((stageBody c u).chain todo).Raises errs P)
    (ht : command op c todo (fun u => (stageBody c u).chain todo) s = .next t) (herr : t.err ≠ .none) :
    ∃ e ∈ errs, t.err.code = e.code ∧ t.err.cls = e.cls ∧ t.err.opcode = op ∧ t.seq = .idle ∧ t.done = false := by
  rw [command_accepted (State.busy_idle hq) (State.errSet_eq_false_iff.2 (by rw [he]; rfl))] at ht
  cases hh : s.held with
  | true =>
    rw [launch_held hh] at ht
    exact absurd (Host.Outcome.next.inj ht ▸ he) herr
  | false =>
    rw [launch_runs hh] at ht
    obtain ⟨P, hP⟩ := hraises (s.accept op (.enter c) todo).tick he
    have hkeeps : ∀ d ∈ c :: todo, ∀ u, (stageBody d u).RunsTo (·.steadyPart = u.steadyPart) := fun d hd u =>
      stageBody_keepsSteady (hreset d hd).1 (hreset d hd).2 u
    exact raised_of_settle (s := (s.accept op (.enter c) todo).tick) (Run.RunsTo.chain (fun _ hu => hu) todo
      (fun d hd u hu => (hkeeps d (List.mem_cons_of_mem _ hd) u).imp fun _ hv => hv.trans hu) (hkeeps c List.mem_cons_self _)) rfl he hP ht herr

/-- R158 for each command: DECOMPRESS's second part alone has a wider list than its command (R138). -/
theorem exec_error {i : Instr} {s t : State} (hq : s.seq = .idle) (he : s.err = .none) (ht : exec i s = .next t) (herr : t.err ≠ .none) :
    ∃ e ∈ errorsOf i, t.err.code = e.code ∧ t.err.cls = e.cls ∧ t.err.opcode = opcodeOf i ∧ t.seq = .idle ∧ t.done = false := by
  have hstays : s.ErrStays t → t.err = .none := fun h => h.elim (·.trans he) id
  by_cases hr : i = .softReset
  · subst hr
    exact absurd (hstays (exec_softReset_errStays ht)) herr
  by_cases hc : i = .clearErr
  · subst hc
    exact absurd (hstays (exec_clearErr_errStays ht)) herr
  obtain ⟨c, todo, hplan, heq⟩ := exec_command hr hc s
  rw [heq] at ht
  have hreset : ∀ d ∈ Instr.plan i, d ≠ .softReset ∧ d ≠ .clearErr := by
    revert hr hc
    cases i <;> decide
  refine command_error hq he (hplan ▸ hreset) (fun u hu => ?_) ht herr
  by_cases hd : i = .decompress
  · subst hd
    obtain ⟨rfl, rfl⟩ := List.cons.inj hplan
    exact ⟨_, (decompressBody_errsWithin hu).raises⟩
  · have hsub : ∀ d ∈ Instr.plan i, d.errors ⊆ errorsOf i := by
      revert hd
      cases i <;> decide
    rw [hplan] at hsub
    exact ⟨_, raises_chain todo (fun d h => hsub d (List.mem_cons_of_mem _ h))
      ((stageBody_raises c u).mono (hsub c List.mem_cons_self))⟩

/-- Settles O9: each stage raises its own errors only (`stageBody_raises`), and a raise leaves its own record (`raised_of_settle`). -/
theorem errorsOfEachCommand : Obligations.ErrorsOfEachCommand := by
  refine ⟨fun i s t hq he ht herr => exec_error hq he ht herr, fun w why s t hq he hw ht herr => ?_, rfl⟩
  rw [memWrite_cmd, writeCmd_illegal hw, offerIllegal_command] at ht
  have hinfo : (t.err.info : Byte) = w.setWidth 8 := by
    rcases command_next.1 ht with ⟨-, rfl⟩ | ⟨-, -, -, rfl⟩ | ⟨-, -, -, hset⟩
    · exact absurd he herr
    · exact absurd he herr
    · obtain rfl := Host.Outcome.next.inj hset
      by_cases hh : (s.accept (opcodeField w) (.enter (.illegal (opcodeField w))) []).tick.held = true
      · rw [if_pos hh] at herr
        exact absurd he herr
      · rw [if_neg hh]
        rfl
  have hraises : ∀ u : State, ((stageBody (.illegal (opcodeField w)) u).chain []).RaisesOnly [.badCmd] := fun u => stageBody_raises (.illegal _) u
  obtain ⟨e, hmem, hcode, hcls, hop, hseq, hdone⟩ := command_error hq he (by simp) (fun u _ => ⟨_, hraises u⟩) ht herr
  obtain rfl := List.mem_singleton.1 hmem
  refine ⟨?_, hseq, hdone⟩
  cases herr' : t.err
  simp_all [ErrorKind.code, ErrorKind.cls, opcodeField]

end Sys2Proof.Machine
end

section
/-! PROOFS. No stage reads SEQ, the pace, IN, the sink's answers or the two counts but through ReadIn and Emit (spec/00_scope.md R15, R16; 10_state.md
R22, R38; 20_memory.md R60, R61): the heap, the tree builder, the code table and the node RAM are the same whatever these are. -/

namespace Sys2Proof.Machine

open Sys2Proof

/-! ### The ports -/

/-- What ReadIn, Emit and the lifecycle alone read or write: SEQ, the pace, IN and the answers to come, the two counts. -/
structure Ports where
  seq : Seq
  pace : Option Nat
  inq : List Token
  sink : List SinkAnswer
  sinkRest : Option SinkAnswer
  inCount : Word
  outCount : Word

def State.ports (s : State) : Ports := ⟨s.seq, s.pace, s.inq, s.sink, s.sinkRest, s.inCount, s.outCount⟩

/-- s with other ports. -/
def State.withPorts (s : State) (p : Ports) : State :=
  { s with
    seq := p.seq, pace := p.pace, inq := p.inq, sink := p.sink, sinkRest := p.sinkRest, inCount := p.inCount, outCount := p.outCount }

section tables
variable (s : State) (p : Ports)

/-! ### The heap (R105 to R111) -/

@[simp] theorem heapAt_withPorts (k : Nat) : (s.withPorts p).heapAt k = s.heapAt k := rfl
@[simp] theorem live_withPorts : (s.withPorts p).live = s.live := rfl
@[simp] theorem less_withPorts (a b : Idx) : (s.withPorts p).less a b = s.less a b := rfl
@[simp] theorem weight_withPorts (n : Idx) : (s.withPorts p).weight n = s.weight n := rfl
@[simp] theorem leastChild_withPorts (i : Nat) : (s.withPorts p).leastChild i = s.leastChild i := rfl
@[simp] theorem setLive_withPorts (n : Nat) : (s.withPorts p).setLive n = (s.setLive n).withPorts p := rfl
@[simp] theorem nextInt_withPorts : (s.withPorts p).nextInt = s.nextInt := rfl
@[simp] theorem stack_withPorts : (s.withPorts p).stack = s.stack := rfl

@[simp] theorem setHeap_withPorts (i : Nat) (n : Idx) : (s.withPorts p).setHeap i n = (s.setHeap i n).withPorts p := by
  unfold State.setHeap
  split <;> rfl

@[simp] theorem swapHeap_withPorts (i j : Nat) : (s.withPorts p).swapHeap i j = (s.swapHeap i j).withPorts p := by simp [State.swapHeap]

@[simp] theorem siftDownLoop_withPorts (turns i : Nat) : siftDownLoop turns i (s.withPorts p) = (siftDownLoop turns i s).withPorts p := by
  induction turns generalizing i s with
  | zero => rfl
  | succ n ih =>
    simp only [siftDownLoop, leastChild_withPorts, swapHeap_withPorts, ih]
    split <;> rfl

@[simp] theorem siftUpLoop_withPorts (turns i : Nat) : siftUpLoop turns i (s.withPorts p) = (siftUpLoop turns i s).withPorts p := by
  induction turns generalizing i s with
  | zero => rfl
  | succ n ih =>
    simp only [siftUpLoop, heapAt_withPorts, less_withPorts, swapHeap_withPorts, ih]
    split
    · rfl
    · split <;> rfl

@[simp] theorem siftDown_withPorts (i : Nat) : (s.withPorts p).siftDown i = (s.siftDown i).withPorts p := by simp [State.siftDown]

theorem dropMin_withPorts : (s.withPorts p).dropMin = s.dropMin.withPorts p := by
  by_cases h : s.live - 1 > 0 <;> simp only [State.dropMin, live_withPorts, setLive_withPorts, heapAt_withPorts, h, if_true, if_false, setHeap_withPorts]

@[simp] theorem extractMin_withPorts : (s.withPorts p).extractMin = (s.extractMin.1, s.extractMin.2.withPorts p) := by
  refine Prod.ext rfl ?_
  rw [State.extractMin_snd, dropMin_withPorts, siftDown_withPorts, State.extractMin_snd]

@[simp] theorem insert_withPorts (n : Idx) : (s.withPorts p).insert n = (s.insert n).withPorts p := by simp [State.insert, State.siftUp]

theorem heapify_withPorts (n : Nat) : heapify n (s.withPorts p) = (heapify n s).withPorts p := by
  induction n generalizing s with
  | zero => rfl
  | succ n ih => simp [heapify, ih]

theorem appendLeaves_withPorts (vs : List Byte) : vs.foldl State.appendLeaf (s.withPorts p) = (vs.foldl State.appendLeaf s).withPorts p := by
  induction vs generalizing s with
  | nil => rfl
  | cons v vs ih => simp [State.appendLeaf, ih]

theorem buildHeap_withPorts : (s.withPorts p).buildHeap = s.buildHeap.withPorts p := by
  have hloaded := appendLeaves_withPorts s.discardTree p s.usedSymbols
  simp only [State.buildHeap, show (s.withPorts p).usedSymbols.foldl State.appendLeaf (s.withPorts p).discardTree = _ from hloaded]
  exact heapify_withPorts _ p _

/-! ### The tree builder (R113 to R117) -/

@[simp] theorem mergedWeight_withPorts (a b : Idx) :
    (s.withPorts p).mergedWeight a b = ((s.mergedWeight a b).1, (s.mergedWeight a b).2.withPorts p) := by
  by_cases h : (s.weight a).toNat + (s.weight b).toNat < 2 ^ 32
  · rw [State.mergedWeight_fits h, State.mergedWeight_fits (s := s.withPorts p) h]
    rfl
  · rw [State.mergedWeight_free h, State.mergedWeight_free (s := s.withPorts p) h]
    rfl

@[simp] theorem alloc_withPorts (nd : Node) : (s.withPorts p).alloc nd = (s.alloc nd).map (·.withPorts p) := by
  simp only [State.alloc, State.setNode, nextInt_withPorts]
  cases slot? s.nextInt <;> rfl

theorem merge_withPorts : (s.withPorts p).merge = s.merge.map (·.withPorts p) := by
  simp only [State.merge, extractMin_withPorts, mergedWeight_withPorts, alloc_withPorts, nextInt_withPorts]
  cases State.alloc _ _ with
  | ok t => exact congrArg Except.ok (insert_withPorts t p _)
  | error f => rfl

theorem treeStep_withPorts : (s.withPorts p).treeStep = s.treeStep.map (·.withPorts p) := by
  simp only [State.treeStep, live_withPorts, show (s.withPorts p).heapUsable = s.heapUsable from rfl, merge_withPorts]
  split
  · rfl
  · split <;> rfl

theorem mergeAll_withPorts (turns : Nat) : mergeAll turns (s.withPorts p) = (mergeAll turns s).map (·.withPorts p) := by
  induction turns generalizing s with
  | zero => rfl
  | succ n ih =>
    simp only [mergeAll, live_withPorts, merge_withPorts]
    split
    · cases s.merge with
      | ok t => exact ih t
      | error f => rfl
    · rfl

theorem finalizeTree_withPorts : (s.withPorts p).finalizeTree = s.finalizeTree.map (·.withPorts p) := by
  simp only [State.finalizeTree, State.synthesize, live_withPorts, heapAt_withPorts, weight_withPorts, nextInt_withPorts, alloc_withPorts]
  split
  · rfl
  · split
    · cases State.alloc _ _ with
      | ok t => exact congrArg (fun u : State => Except.ok { u with root := s.nextInt }) (setHeap_withPorts t p 0 s.nextInt)
      | error f => rfl
    · rfl

theorem treeBuild_withPorts : (s.withPorts p).treeBuild = s.treeBuild.map (·.withPorts p) := by
  simp only [State.treeBuild, live_withPorts, show (s.withPorts p).heapUsable = s.heapUsable from rfl, mergeAll_withPorts]
  split
  · cases mergeAll s.live s with
    | ok t => exact finalizeTree_withPorts t p
    | error f => rfl
  · rfl

/-! ### The traversal stack and the walks that use it (R37, R119, R123, R125) -/

@[simp] theorem child_withPorts (side : Side) (n : Idx) : (s.withPorts p).child side n = s.child side n := rfl

@[simp] theorem push_withPorts (e : StackEntry) : (s.withPorts p).push e = (s.push e).map (·.withPorts p) := by
  by_cases h : s.stack.length < Config.stackDepth
  · rw [State.push, State.push, if_pos h, if_pos (by exact h)]
    rfl
  · rw [State.push, State.push, if_neg h, if_neg (by exact h)]
    rfl

theorem popped_withPorts (rest : List StackEntry) : ({ s.withPorts p with stack := rest } : State) = State.withPorts { s with stack := rest } p := rfl

theorem deriveVisit_withPorts (e : StackEntry) : (s.withPorts p).deriveVisit e = (s.deriveVisit e).map (·.withPorts p) := by
  simp only [State.deriveVisit, show ∀ v, (s.withPorts p).codeLenOf v = s.codeLenOf v from fun _ => rfl, child_withPorts, push_withPorts]
  split
  · split <;> rfl
  · split
    · split
      · rfl
      · cases s.push _ with
        | ok t => exact push_withPorts t p _
        | error f => rfl
    · rfl
    · rfl

theorem deriveLoop_withPorts (visits : Nat) : deriveLoop visits (s.withPorts p) = (deriveLoop visits s).map (·.withPorts p) := by
  induction visits generalizing s with
  | zero =>
    unfold deriveLoop
    cases hs : s.stack <;> simp only [stack_withPorts, hs] <;> rfl
  | succ n ih =>
    unfold deriveLoop
    cases hs : s.stack with
    | nil =>
      simp only [stack_withPorts, hs]
      rfl
    | cons e rest =>
      simp only [stack_withPorts, hs, popped_withPorts, deriveVisit_withPorts]
      cases State.deriveVisit { s with stack := rest } e with
      | ok t => exact ih t
      | error f => rfl

theorem deriveCodes_withPorts : (s.withPorts p).deriveCodes = s.deriveCodes.map (·.withPorts p) := by
  by_cases h : s.root = Config.nil
  · rw [State.deriveCodes_nil h]
    exact State.deriveCodes_nil (s := s.withPorts p) h
  · rw [State.deriveCodes_of_ne_nil h, ← deriveLoop_withPorts]
    exact State.deriveCodes_of_ne_nil (s := s.withPorts p) h

theorem attach_withPorts (n : Idx) : (s.withPorts p).attach n = (s.attach n).map (·.withPorts p) := by
  have hchild : ∀ (u : State) (side : Side) (m c : Idx), (u.withPorts p).setChild side m c = (u.setChild side m c).map (·.withPorts p) := by
    intro u side m c
    unfold State.setChild
    split
    · cases side <;> rfl
    · rfl
  simp only [State.attach, stack_withPorts, popped_withPorts, hchild]
  split
  · rfl
  · split <;> rfl

theorem serialNext_withPorts (pending : Option Idx) :
    (s.withPorts p).serialNext pending = (s.serialNext pending).map fun q => (q.1, q.2.withPorts p) := by
  cases pending with
  | some n => rfl
  | none =>
    simp only [State.serialNext, stack_withPorts, child_withPorts, popped_withPorts, push_withPorts]
    split
    · rfl
    · split
      · rfl
      · split
        · cases State.push _ _ with
          | ok t =>
            simp only [Except.map, push_withPorts]
            cases t.push _ <;> rfl
          | error f => rfl
        · rfl
        · rfl

end tables

end Sys2Proof.Machine
end

section
/-! PROOFS. A command beside itself in a state that differs by what the engine may find otherwise: more tokens, more answers, another pace, other
counts so far (spec/70_reset_and_hazards.md R177, R180; 48_composite.md R143). Where the one waits, the other stands at the same position and
goes on from it (`Run.Resumes`). -/

namespace Sys2Proof.Machine

open Sys2Proof

/-! ### Where the engine can wait (R177; log 2) -/

/-- No token can be read. -/
def State.Starved (s : State) : Prop := s.inq = [] ∨ s.held = true

/-- No offer can be made. -/
def State.Unanswered (s : State) : Prop := s.held = true ∨ s.nextAnswer = none

/-- At this position the engine can only wait. -/
def State.Stalls (s : State) : Pos → Prop
  | .enter _ | .setRoot _ => s.held = true
  | .count | .parse _ | .packRead | .unpackRead => s.Starved
  | .serialize pending turns => s.serialByte pending ≠ none ∧ turns ≠ 0 ∧ s.Unanswered
  | .packBits _ n => n ≠ 0 ∧ s.accN = 7 ∧ s.Unanswered
  | .packFlush => s.accN ≠ 0 ∧ s.Unanswered
  | .unpackEmit _ _ => s.Unanswered
  | .fail _ _ | .leave => False

theorem overTokens_starved {σ : Type} {pos : σ → Pos} {body : σ → Token → State → LoopStep σ} {s : State} (h : s.Starved) (x : σ) :
    overTokens pos body s.inq x s = .wait (pos x) [] s := by
  rcases h with h | h
  · rw [h, overTokens_nil]
  · cases s.inq with
    | nil => rfl
    | cons t ts => exact overTokens_held h

theorem emitLeaf_unanswered {s : State} (h : s.Unanswered) : s.emitLeaf = .waiting := by rw [State.emitLeaf, State.emit_waiting.2 h]

theorem serialLoop_unanswered {s : State} {pending : Option Idx} {turns : Nat} (hb : s.serialByte pending ≠ none) (ht : turns ≠ 0)
    (h : s.Unanswered) : serialLoop turns pending s = .wait (.serialize pending turns) [] s := by
  obtain ⟨b, hb⟩ := Option.ne_none_iff_exists'.1 hb
  obtain ⟨n, rfl⟩ := Nat.exists_eq_succ_of_ne_zero ht
  rw [serialLoop, hb]
  simp only [State.emit_waiting.2 h]

theorem putBit_unanswered {s : State} (hn : s.accN = 7) (h : s.Unanswered) (x : Bool) : s.putBit x = .waiting := by
  rw [State.putBit, if_pos hn, State.emit_waiting.2 h]

theorem resumeAt_of_stalls {s : State} {pos : Pos} (h : s.Stalls pos) : resumeAt pos s = .wait pos [] s := by
  cases pos with
  | enter c => exact if_pos h
  | setRoot r => exact if_pos h
  | count => exact overTokens_starved h ()
  | parse p => exact overTokens_starved h p
  | packRead => exact overTokens_starved h ()
  | unpackRead => exact overTokens_starved h ()
  | serialize pending turns => exact serialLoop_unanswered h.1 h.2.1 h.2.2
  | packBits b n =>
    obtain ⟨hn, hacc, ha⟩ := h
    obtain ⟨m, rfl⟩ := Nat.exists_eq_succ_of_ne_zero hn
    rw [resumeAt, packFromBits, putBits, putBit_unanswered hacc ha]
  | packFlush => rw [resumeAt, flushPartial, if_neg h.1, State.emit_waiting.2 h.2]
  | unpackEmit b n => rw [resumeAt, unpackFromEmit, emitLeaf_unanswered h]
  | fail e info => exact h.elim
  | leave => exact h.elim

/-! ### What the engine may find otherwise -/

/-- What is otherwise: whether the engine is let run without limit, more tokens at the end of IN, more answers where the later ones are undecided, what
the counts hold already, and SEQ. -/
structure Supply where
  free : Bool
  tokens : List Token
  answers : List SinkAnswer
  rest : Option SinkAnswer
  ins : Word
  outs : Word
  seq : Seq

def Supply.shift (δ : Supply) (p : Ports) : Ports where
  seq := δ.seq
  pace := if δ.free then none else p.pace
  inq := p.inq ++ δ.tokens
  sink := if p.sinkRest = none then p.sink ++ δ.answers else p.sink
  sinkRest := p.sinkRest.or δ.rest
  inCount := δ.ins + p.inCount
  outCount := δ.outs + p.outCount

/-- s as it is found otherwise. -/
def Supply.on (δ : Supply) (s : State) : State := s.withPorts (δ.shift s.ports)

def Emitted.on (δ : Supply) : Emitted → Emitted
  | .accepted s => .accepted (δ.on s)
  | .failed s => .failed (δ.on s)
  | .waiting => .waiting

/-- Nothing the engine could take is added. -/
structure Supply.Plain (δ : Supply) : Prop where
  paced : δ.free = false
  tokens : δ.tokens = []
  answers : δ.answers = []
  rest : δ.rest = none

section supply
variable (δ : Supply) {s t : State}

/-- An effect that neither reads nor writes the ports. -/
theorem Supply.on_of_withPorts {f : State → State} (h : ∀ s p, f (s.withPorts p) = (f s).withPorts p) (s : State) : f (δ.on s) = δ.on (f s) := by
  have hports : (f s).ports = s.ports := (congrArg State.ports (h s s.ports) :)
  rw [Supply.on, h, Supply.on, hports]

theorem Supply.on_of_map {α : Type} {f : State → Except Fault (α × State)}
    (h : ∀ s p, f (s.withPorts p) = (f s).map fun q => (q.1, q.2.withPorts p)) (s : State) : f (δ.on s) = (f s).map fun q => (q.1, δ.on q.2) := by
  rw [Supply.on, h]
  cases hf : f s with
  | error e => rfl
  | ok q =>
    have hown := h s s.ports
    rw [show s.withPorts s.ports = s from rfl, hf] at hown
    have hports : q.2.ports = s.ports := congrArg (fun r => r.2.ports) (Except.ok.inj hown)
    show Except.ok (q.1, q.2.withPorts (δ.shift s.ports)) = Except.ok (q.1, q.2.withPorts (δ.shift q.2.ports))
    rw [hports]

theorem Supply.on_of_map_withPorts {f : State → Except Fault State} (h : ∀ s p, f (s.withPorts p) = (f s).map (·.withPorts p)) (s : State) :
    f (δ.on s) = (f s).map δ.on := by
  rw [Supply.on, h]
  cases hf : f s with
  | error e => rfl
  | ok t =>
    have hown := h s s.ports
    rw [show s.withPorts s.ports = s from rfl, hf] at hown
    have hports : t.ports = s.ports := (congrArg State.ports (Except.ok.inj hown) :)
    show Except.ok (t.withPorts (δ.shift s.ports)) = Except.ok (t.withPorts (δ.shift t.ports))
    rw [hports]

theorem Supply.held_on (h : s.held = false) : (δ.on s).held = false := by
  have hp : (δ.on s).pace = if δ.free then none else s.pace := rfl
  unfold State.held at h ⊢
  rw [hp]
  split
  · rfl
  · exact h

theorem Supply.tick_on (s : State) : (δ.on s).tick = δ.on s.tick := by
  have hp : (if δ.free then none else s.pace).map (· - 1) = if δ.free then none else s.pace.map (· - 1) := by split <;> rfl
  exact congrArg (fun p => { δ.on s with pace := p }) hp

/-- A token that is read counts on top of what the count holds (R15). -/
theorem Supply.consume_on (s : State) (tok : Token) (ts : List Token) : (δ.on s).consume tok (ts ++ δ.tokens) = δ.on (s.consume tok ts) := by
  cases tok with
  | byte b =>
    simp only [State.consume, δ.tick_on]
    exact congrArg (fun n => { δ.on s.tick with inq := ts ++ δ.tokens, inCount := n }) (BitVec.add_assoc δ.ins s.inCount 1)
  | endOfPass | fail =>
    simp only [State.consume, δ.tick_on]
    rfl

/-- An answer that is there stays the next one. -/
theorem Supply.nextAnswer_on {a : SinkAnswer} {later : List SinkAnswer} (h : s.nextAnswer = some (a, later)) :
    (δ.on s).nextAnswer = some (a, if s.sinkRest = none then later ++ δ.answers else later) := by
  have hsink : (δ.on s).sink = if s.sinkRest = none then s.sink ++ δ.answers else s.sink := rfl
  have hrest : (δ.on s).sinkRest = s.sinkRest.or δ.rest := rfl
  unfold State.nextAnswer at h ⊢
  rw [hsink, hrest]
  cases hs : s.sink with
  | cons b bs =>
    rw [hs] at h
    obtain ⟨rfl, rfl⟩ := Prod.mk.inj (Option.some.inj h)
    by_cases hr : s.sinkRest = none <;> simp [hr]
  | nil =>
    rw [hs] at h
    obtain ⟨b, hr, hb⟩ := Option.map_eq_some_iff.1 h
    obtain ⟨rfl, rfl⟩ := Prod.mk.inj hb
    simp [hr]

/-- An offer that is answered is answered alike (R16). -/
theorem Supply.emit_on {b : Byte} (h : s.emit b ≠ .waiting) : (δ.on s).emit b = (s.emit b).on δ := by
  cases he : s.emit b with
  | waiting => exact absurd he h
  | accepted t =>
    obtain ⟨hh, later, ha, rfl⟩ := State.emit_accepted.1 he
    refine State.emit_accepted.2 ⟨δ.held_on hh, _, δ.nextAnswer_on ha, ?_⟩
    simp only [State.emitted, δ.tick_on]
    exact congrArg (fun n => { δ.on s.tick with
      sink := if s.sinkRest = none then later ++ δ.answers else later, out := s.out ++ [b], outCount := n }) (BitVec.add_assoc δ.outs s.outCount 1).symm
  | failed t =>
    obtain ⟨hh, later, ha, rfl⟩ := State.emit_failed.1 he
    refine State.emit_failed.2 ⟨δ.held_on hh, _, δ.nextAnswer_on ha, ?_⟩
    simp only [δ.tick_on]
    rfl

theorem Supply.putBit_on {x : Bool} (h : s.putBit x ≠ .waiting) : (δ.on s).putBit x = (s.putBit x).on δ := by
  have hacc : (δ.on s).acc = s.acc := rfl
  have haccN : (δ.on s).accN = s.accN := rfl
  by_cases hn : s.accN = 7
  · simp only [State.putBit, haccN, hacc, if_pos hn] at h ⊢
    generalize 2 * s.acc + bitByte x = b at h ⊢
    cases he : s.emit b with
    | waiting => simp [he] at h
    | _ => rw [δ.emit_on (by simp [he]), he]; rfl
  · simp only [State.putBit, haccN, if_neg hn]
    rfl

theorem putBit_waiting {x : Bool} (h : s.putBit x = .waiting) : s.accN = 7 ∧ s.Unanswered := by
  by_cases hn : s.accN = 7
  · rw [State.putBit, if_pos hn] at h
    generalize 2 * s.acc + bitByte x = b at h
    cases he : s.emit b with
    | waiting => exact ⟨hn, State.emit_waiting.1 he⟩
    | _ => simp [he] at h
  · rw [State.putBit, if_neg hn] at h
    cases h

theorem Supply.emitLeaf_on (h : s.emitLeaf ≠ .waiting) : (δ.on s).emitLeaf = s.emitLeaf.on δ := by
  have hcur : (δ.on s).cur = s.cur := rfl
  simp only [State.emitLeaf, hcur] at h ⊢
  cases he : s.emit (leafValue s.cur) with
  | waiting => simp [he] at h
  | _ => rw [δ.emit_on (by simp [he]), he]; rfl

theorem emitLeaf_waiting (h : s.emitLeaf = .waiting) : s.Unanswered := by
  cases he : s.emit (leafValue s.cur) with
  | waiting => exact State.emit_waiting.1 he
  | _ => simp [State.emitLeaf, he] at h

/-- Where nothing is added the engine waits as before. -/
theorem Supply.Plain.stalls {δ : Supply} (h : δ.Plain) {pos : Pos} (hs : s.Stalls pos) : (δ.on s).Stalls pos := by
  obtain ⟨hpaced, htokens, hanswers, hrest⟩ := h
  have hheld : (δ.on s).held = s.held := by
    show ((if δ.free then none else s.pace) == some 0) = _
    rw [hpaced]
    rfl
  have hinq : (δ.on s).inq = s.inq := by
    show s.inq ++ δ.tokens = s.inq
    rw [htokens, List.append_nil]
  have hanswer : (δ.on s).nextAnswer = s.nextAnswer := by
    have hsink : (δ.on s).sink = s.sink := by
      show (if s.sinkRest = none then s.sink ++ δ.answers else s.sink) = s.sink
      rw [hanswers, List.append_nil, ite_self]
    have hsame : (δ.on s).sinkRest = s.sinkRest := by
      show s.sinkRest.or δ.rest = s.sinkRest
      rw [hrest, Option.or_none]
    rw [State.nextAnswer, hsink, hsame, State.nextAnswer]
  have hbyte : ∀ pending, (δ.on s).serialByte pending = s.serialByte pending := fun pending => by cases pending <;> rfl
  have haccN : (δ.on s).accN = s.accN := rfl
  unfold State.Stalls State.Starved State.Unanswered at *
  simpa only [hheld, hinq, hanswer, hbyte, haccN] using hs

end supply

/-! ### Beside each other -/

/-- q, begun in the state found otherwise, ends as r does; where r waits, q has come to the same position and goes on from there. -/
inductive Run.Resumes (δ : Supply) : Run → Run → Prop
  | ret (s : State) : Resumes δ (.ret s) (.ret (δ.on s))
  | raised (e : ErrorKind) (info : Byte) (s : State) : Resumes δ (.raised e info s) (.raised e info (δ.on s))
  | reset (s : State) : Resumes δ (.reset s.softReset) (.reset (δ.on s).softReset)
  | wait (pos : Pos) (todo : List Stage) (s : State) : s.Stalls pos → Resumes δ (.wait pos todo s) ((resumeAt pos (δ.on s)).chain todo)
  | stuck (f : Fault) : Resumes δ (.stuck f) (.stuck f)

/-- The rest of a loop after an iteration. -/
def LoopStep.finish {σ : Type} (loop : σ → State → Run) : LoopStep σ → Run
  | .more x s => loop x s
  | .stop r => r

/-- The same of one iteration of a loop: where it waits, the rest of the other loop goes on from there. -/
inductive LoopStep.Resumes {σ : Type} (δ : Supply) (loop : σ → State → Run) : LoopStep σ → LoopStep σ → Prop
  | more (x : σ) (s : State) : Resumes δ loop (.more x s) (.more x (δ.on s))
  | stop {r : Run} {y : LoopStep σ} : r.Resumes δ (y.finish loop) → Resumes δ loop (.stop r) y

section resumes
variable {δ : Supply} {s : State} {r q : Run}

theorem resumes_wait {pos : Pos} (h : s.Stalls pos) (hq : q = resumeAt pos (δ.on s)) : (Run.wait pos [] s).Resumes δ q := by
  subst hq
  exact .wait pos [] s h

theorem resumes_ofExcept {f : State → Except Fault State} (h : ∀ s p, f (s.withPorts p) = (f s).map (·.withPorts p)) :
    (Run.ofExcept (f s)).Resumes δ (.ofExcept (f (δ.on s))) := by
  rw [δ.on_of_map_withPorts h]
  cases f s with
  | ok t => exact .ret t
  | error f => exact .stuck f

theorem Run.Resumes.andThen {c : Stage} (hbody : ∀ s, (stageBody c s).Resumes δ (stageBody c (δ.on s))) (h : r.Resumes δ q) :
    (r.andThen c).Resumes δ (q.andThen c) := by
  cases h with
  | ret s =>
    cases hh : s.held with
    | true =>
      rw [Run.andThen_ret, hh, if_pos rfl]
      exact resumes_wait (pos := .enter c) hh rfl
    | false =>
      rw [Run.andThen_ret, Run.andThen_ret, hh, δ.held_on hh, δ.tick_on]
      exact hbody s.tick
  | raised e info s => exact .raised e info s
  | reset s => exact .reset s
  | wait pos todo s hs =>
    have hnext := Run.Resumes.wait (δ := δ) pos (todo ++ [c]) s hs
    rwa [Run.chain_append] at hnext
  | stuck f => exact .stuck f

theorem Run.Resumes.chain (hbody : ∀ c s, (stageBody c s).Resumes δ (stageBody c (δ.on s))) (todo : List Stage) (h : r.Resumes δ q) :
    (r.chain todo).Resumes δ (q.chain todo) := by
  induction todo generalizing r q with
  | nil => exact h
  | cons c todo ih => exact ih (h.andThen (hbody c))

/-- Token loops beside each other, when each iteration is. -/
theorem resumes_overTokens {σ : Type} {pos : σ → Pos} {body : σ → Token → State → LoopStep σ}
    (hstall : ∀ (x : σ) (s : State), s.Starved → s.Stalls (pos x)) (hresume : ∀ x s, resumeAt (pos x) s = overTokens pos body s.inq x s)
    (hinq : ∀ x tok s y u, body x tok s = .more y u → u.inq = s.inq)
    (hbody : ∀ x tok s, (body x tok s).Resumes δ (fun y u => overTokens pos body u.inq y u) (body x tok (δ.on s))) (x : σ) (s : State) :
    (overTokens pos body s.inq x s).Resumes δ (overTokens pos body (δ.on s).inq x (δ.on s)) := by
  generalize hts : s.inq = ts
  induction ts generalizing x s with
  | nil => exact resumes_wait (hstall x s (.inl hts)) (hresume x _).symm
  | cons tok ts ih =>
    cases hh : s.held with
    | true =>
      rw [overTokens_held hh]
      exact resumes_wait (hstall x s (.inr hh)) (hresume x _).symm
    | false =>
      have hstep := hbody x tok (s.consume tok ts)
      have hmore := hinq x tok (s.consume tok ts)
      have hmore' := hinq x tok (δ.on (s.consume tok ts))
      rw [show (δ.on s).inq = tok :: (ts ++ δ.tokens) from congrArg (· ++ δ.tokens) hts, overTokens, overTokens, hh, δ.held_on hh, δ.consume_on]
      simp only [if_false, Bool.false_eq_true]
      generalize body x tok (s.consume tok ts) = a at hstep hmore
      generalize body x tok (δ.on (s.consume tok ts)) = b at hstep hmore'
      cases hstep with
      | more y u =>
        have hu : u.inq = ts := (hmore y u rfl).trans (State.consume_inq s tok ts)
        have hnext := ih y u hu
        rwa [show (δ.on u).inq = ts ++ δ.tokens from congrArg (· ++ δ.tokens) hu] at hnext
      | stop hr =>
        cases b with
        | more y u =>
          have hu : u.inq = ts ++ δ.tokens := (hmore' y u rfl).trans (congrArg (· ++ δ.tokens) (State.consume_inq s tok ts))
          rwa [LoopStep.finish, hu] at hr
        | stop q => exact hr

end resumes

end Sys2Proof.Machine
end

section
/-! PROOFS. Every stage beside itself in a state found otherwise (`Run.Resumes`): FREQ_COUNT, ParseHeader, TREE_SERIALIZE, PACK and UNPACK take from
the ports by ReadIn and Emit alone, the other stages nothing (spec/00_scope.md R15, R16). -/

namespace Sys2Proof.Machine

open Sys2Proof

variable {δ : Supply}

/-! ### FREQ_COUNT (R103) -/

theorem countLoop_resumes (s : State) : (countLoop s).Resumes δ (countLoop (δ.on s)) := by
  refine resumes_overTokens (pos := fun _ => .count) (fun _ _ h => h) (fun _ _ => rfl) (fun _ tok s y u h => ?_) (fun _ tok s => ?_) () s
  · cases tok with
    | byte b =>
      unfold countToken at h
      dsimp only at h
      split at h
      · cases h
      · obtain ⟨-, rfl⟩ := LoopStep.more.inj h
        rfl
    | _ => cases h
  · cases tok with
    | fail => exact .stop (.raised _ _ _)
    | endOfPass => exact .stop (.ret _)
    | byte b =>
      have hcount : (δ.on s).countByte b = δ.on (s.countByte b) := δ.on_of_withPorts (f := fun u => u.countByte b) (fun _ _ => rfl) s
      have htotal : (δ.on s).total = s.total := rfl
      simp only [countToken, htotal, hcount]
      split
      · exact .stop (.raised _ _ _)
      · exact .more _ _

/-! ### ParseHeader (R125) -/

/-- What each part of an iteration of ParseHeader is beside itself. -/
abbrev ParseResumes (δ : Supply) (f : State → LoopStep ParsePoint) : Prop := ∀ s, (f s).Resumes δ (fun p u => parseLoop p u) (f (δ.on s))

theorem finishHeader_resumes (r : Idx) (s : State) : (finishHeader r s).Resumes δ (finishHeader r (δ.on s)) := by
  cases hh : s.held with
  | true =>
    rw [finishHeader_held hh]
    exact resumes_wait (pos := .setRoot r) hh rfl
  | false =>
    rw [finishHeader, finishHeader, hh, δ.held_on hh, δ.tick_on]
    exact .ret { s.tick with root := r }

theorem parseEnd_resumes (r n : Idx) : ParseResumes δ (parseEnd r n) := fun s => by
  have hpush := δ.on_of_map_withPorts (f := fun u => u.push { node := n, side := .left }) (fun u p => push_withPorts u p _) s
  have hstack : (δ.on s).stack = s.stack := rfl
  simp only [parseEnd, hstack, hpush]
  split
  · split
    · exact .stop (finishHeader_resumes r s)
    · exact .more _ _
  · cases s.push { node := n, side := .left } with
    | ok t => exact .more _ _
    | error f => exact .stop (.stuck f)

theorem parseNode_resumes (p : ParsePoint) (n : Idx) : ParseResumes δ (parseNode p n) := fun s => by
  have hattach := δ.on_of_map_withPorts (f := fun u => u.attach n) (fun u p => attach_withPorts u p n) s
  cases p with
  | first => exact parseEnd_resumes n n s
  | tag r | value r =>
    simp only [parseNode, hattach]
    cases s.attach n with
    | ok t => exact parseEnd_resumes r n t
    | error f => exact .stop (.stuck f)

theorem parseInternal_resumes (p : ParsePoint) : ParseResumes δ (parseInternal p) := fun s => by
  have halloc := δ.on_of_map_withPorts (f := fun u => u.alloc ⟨true, Config.nil, Config.nil, 0⟩) (fun u p => alloc_withPorts u p _) s
  have hnext : (δ.on s).nextInt = s.nextInt := rfl
  simp only [parseInternal, hnext, halloc]
  split
  · exact .stop (.raised _ _ _)
  · cases s.alloc ⟨true, Config.nil, Config.nil, 0⟩ with
    | ok t => exact parseNode_resumes p s.nextInt t
    | error f => exact .stop (.stuck f)

theorem parseToken_resumes (p : ParsePoint) (tok : Token) : ParseResumes δ (parseToken p tok) := fun s => by
  have htag : ParseResumes δ fun u => match tok with | .byte b => parseTag p b u | _ => .more p u := fun u => by
    cases tok with
    | byte b =>
      simp only [parseTag]
      split
      · exact parseInternal_resumes p u
      · split
        · cases p with
          | first => exact .stop (.raised _ _ _)
          | tag r | value r => exact .more _ _
        · exact .stop (.raised _ _ _)
    | _ => exact .more _ _
  cases tok with
  | fail => exact .stop (.raised _ _ _)
  | endOfPass =>
    cases p with
    | first => exact .stop (.ret { s with emptyArt := true })
    | tag r | value r => exact .stop (.raised _ _ _)
  | byte b =>
    cases p with
    | first | tag r => exact htag s
    | value r => exact parseNode_resumes (.value r) (leafSlot b) s

theorem parseLoop_resumes (p : ParsePoint) (s : State) : (parseLoop p s).Resumes δ (parseLoop p (δ.on s)) := by
  refine resumes_overTokens (pos := Pos.parse) (fun _ _ h => h) (fun _ _ => rfl) (fun p tok u q v h => ?_) (fun p tok => parseToken_resumes p tok) p s
  have hadvances := parseToken_advances p tok u
  rw [h] at hadvances
  exact hadvances.1

/-! ### TREE_SERIALIZE (R123) -/

theorem serialLoop_resumes (turns : Nat) (pending : Option Idx) (s : State) :
    (serialLoop turns pending s).Resumes δ (serialLoop turns pending (δ.on s)) := by
  have hbyte : (δ.on s).serialByte pending = s.serialByte pending := by cases pending <;> rfl
  induction turns generalizing pending s with
  | zero =>
    unfold serialLoop
    rw [hbyte]
    cases s.serialByte pending with
    | none => exact .ret s
    | some b => exact .stuck _
  | succ n ih =>
    cases hb : s.serialByte pending with
    | none =>
      unfold serialLoop
      rw [hbyte, hb]
      exact .ret s
    | some b =>
      cases he : s.emit b with
      | waiting =>
        have hstalls : s.Stalls (.serialize pending (n + 1)) := ⟨by simp [hb], Nat.succ_ne_zero n, State.emit_waiting.1 he⟩
        rw [show serialLoop (n + 1) pending s = _ from resumeAt_of_stalls hstalls]
        exact resumes_wait hstalls rfl
      | failed t =>
        unfold serialLoop
        rw [hbyte, hb]
        simp only [δ.emit_on (b := b) (by simp [he] : s.emit b ≠ .waiting), he]
        exact .raised _ _ _
      | accepted t =>
        have hnext := δ.on_of_map (f := fun u => u.serialNext pending) (fun u p => serialNext_withPorts u p pending) t
        unfold serialLoop
        rw [hbyte, hb]
        simp only [δ.emit_on (b := b) (by simp [he] : s.emit b ≠ .waiting), he, Emitted.on, hnext]
        cases t.serialNext pending with
        | ok q => exact ih q.1 q.2 (by cases q.1 <;> rfl)
        | error f => exact .stuck f

/-! ### PACK (R130 to R132) -/

theorem putBits_resumes (b : Byte) (n : Nat) (s : State) :
    (putBits b n s).Resumes δ (fun _ u => packLoop u) (putBits b n (δ.on s)) := by
  induction n generalizing s with
  | zero => exact .more _ _
  | succ n ih =>
    have hcode : (δ.on s).codeBitsOf b = s.codeBitsOf b := rfl
    cases hx : s.putBit ((s.codeBitsOf b).getLsbD n) with
    | accepted t =>
      rw [putBits, putBits, hcode, δ.putBit_on (by simp [hx]), hx]
      exact ih t
    | failed t =>
      rw [putBits, putBits, hcode, δ.putBit_on (by simp [hx]), hx]
      exact .stop (.raised _ _ _)
    | waiting =>
      obtain ⟨hn, ha⟩ := putBit_waiting hx
      have hwait : putBits b (n + 1) s = .stop (.wait (.packBits b (n + 1)) [] s) := by rw [putBits, hx]
      rw [hwait]
      refine .stop (resumes_wait (pos := .packBits b (n + 1)) ⟨Nat.succ_ne_zero n, hn, ha⟩ ?_)
      rw [resumeAt, packFromBits]
      cases putBits b (n + 1) (δ.on s) <;> rfl

theorem flushPartial_resumes (s : State) : (flushPartial s).Resumes δ (flushPartial (δ.on s)) := by
  have haccN : (δ.on s).accN = s.accN := rfl
  have hacc : (δ.on s).acc = s.acc := rfl
  by_cases hn : s.accN = 0
  · rw [flushPartial, flushPartial, if_pos hn, if_pos (by exact hn)]
    exact .ret s
  · cases he : s.emit (s.acc <<< (8 - s.accN.toNat)) with
    | accepted t =>
      rw [flushPartial, flushPartial, if_neg hn, if_neg (by exact hn), hacc, haccN, δ.emit_on (by rw [he]; nofun), he]
      exact .ret t.clearAcc
    | failed t =>
      rw [flushPartial, flushPartial, if_neg hn, if_neg (by exact hn), hacc, haccN, δ.emit_on (by rw [he]; nofun), he]
      exact .raised _ _ _
    | waiting =>
      have hstalls : s.Stalls .packFlush := ⟨hn, State.emit_waiting.1 he⟩
      rw [show flushPartial s = _ from resumeAt_of_stalls hstalls]
      exact resumes_wait hstalls rfl

theorem packLoop_resumes (s : State) : (packLoop s).Resumes δ (packLoop (δ.on s)) := by
  refine resumes_overTokens (pos := fun _ => .packRead) (fun _ _ h => h) (fun _ _ => rfl) (fun _ tok s y u h => ?_) (fun _ tok s => ?_) () s
  · cases tok with
    | byte b =>
      unfold packToken at h
      dsimp only at h
      split at h
      · cases h
      · have hadvances := putBits_advances b (s.codeLenOf b).toNat s
        rw [h] at hadvances
        exact hadvances.1
    | _ => cases h
  · cases tok with
    | fail => exact .stop (.raised _ _ _)
    | endOfPass => exact .stop (flushPartial_resumes s)
    | byte b =>
      simp only [packToken, show (δ.on s).codeLenOf b = s.codeLenOf b from rfl]
      split
      · exact .stop (.raised _ _ _)
      · exact putBits_resumes b _ s

/-! ### UNPACK (R134, R135) -/

theorem walkBits_resumes (b : Byte) (n : Nat) (s : State) :
    (walkBits b n s).Resumes δ (fun _ u => unpackLoop u) (walkBits b n (δ.on s)) := by
  induction n generalizing s with
  | zero => exact .more _ _
  | succ n ih =>
    have hchild : (δ.on s).child (edge (b.getLsbD n)) (δ.on s).cur = s.child (edge (b.getLsbD n)) s.cur := rfl
    have hmoved : ∀ c, ({ δ.on s with cur := c } : State) = δ.on { s with cur := c } := fun _ => rfl
    simp only [walkBits, hchild, hmoved]
    cases s.child (edge (b.getLsbD n)) s.cur with
    | error f => exact .stop (.stuck f)
    | ok c =>
      dsimp only
      split
      · cases he : State.emitLeaf { s with cur := c } with
        | accepted t =>
          rw [δ.emitLeaf_on (by simp [he]), he]
          exact ih t
        | failed t =>
          rw [δ.emitLeaf_on (by simp [he]), he]
          exact .stop (.raised _ _ _)
        | waiting =>
          have ha := emitLeaf_waiting he
          refine .stop (resumes_wait (pos := .unpackEmit b n) ha ?_)
          rw [resumeAt, unpackFromEmit]
          cases (δ.on { s with cur := c }).emitLeaf with
          | accepted t =>
            dsimp only
            cases walkBits b n t <;> rfl
          | _ => rfl
      · exact ih { s with cur := c }

theorem unpackLoop_resumes (s : State) : (unpackLoop s).Resumes δ (unpackLoop (δ.on s)) := by
  refine resumes_overTokens (pos := fun _ => .unpackRead) (fun _ _ h => h) (fun _ _ => rfl) (fun _ tok s y u h => ?_) (fun _ tok s => ?_) () s
  · cases tok with
    | byte b =>
      have hadvances := walkBits_advances b 8 s
      rw [show walkBits b 8 s = .more y u from h] at hadvances
      exact hadvances.1
    | _ => cases h
  · cases tok with
    | fail => exact .stop (.raised _ _ _)
    | endOfPass => exact .stop (.ret { s with midwalk := s.cur != s.root })
    | byte b => exact walkBits_resumes b 8 s

theorem unpackBody_resumes (s : State) : (unpackBody s).Resumes δ (unpackBody (δ.on s)) := by
  have hroot : (δ.on s).root = s.root := rfl
  simp only [unpackBody, hroot]
  split
  · exact .raised _ _ _
  · exact unpackLoop_resumes { s with cur := s.root }

/-! ### Every stage -/

theorem stageBody_resumes (c : Stage) (s : State) : (stageBody c s).Resumes δ (stageBody c (δ.on s)) := by
  cases c with
  | nop => exact .ret s
  | softReset => exact .reset s
  | clearErr => exact .ret s.clearError
  | freqClear => exact .ret s.clearFreq
  | freqCount => exact countLoop_resumes s
  | heapBuild =>
    have hheap : (δ.on s).buildHeap = δ.on s.buildHeap := δ.on_of_withPorts buildHeap_withPorts s
    rw [stageBody, heapBuildBody, heapBuildBody, hheap]
    exact .ret _
  | treeStep => exact resumes_ofExcept treeStep_withPorts
  | treeBuild => exact resumes_ofExcept treeBuild_withPorts
  | codesDerive => exact resumes_ofExcept deriveCodes_withPorts
  | treeSerialize =>
    simp only [stageBody, treeSerializeBody, show (δ.on s).root = s.root from rfl]
    split
    · exact .ret s
    · exact serialLoop_resumes headerBytes none { s with stack := [{ node := s.root }] }
  | treeDeserialize => exact parseLoop_resumes .first { s.discardTree with stack := [] }
  | pack => exact packLoop_resumes s.clearAcc
  | unpack => exact unpackBody_resumes s
  | unpackUnlessEmpty =>
    simp only [stageBody, unpackUnlessEmptyBody, show (δ.on s).emptyArt = s.emptyArt from rfl]
    split
    · exact .ret s
    · exact unpackBody_resumes s
  | illegal op => exact .raised _ _ s

theorem chain_resumes (todo : List Stage) (s : State) : ((Run.ret s).chain todo).Resumes δ ((Run.ret (δ.on s)).chain todo) :=
  Run.Resumes.chain stageBody_resumes todo (.ret s)

end Sys2Proof.Machine
end

section
/-! PROOFS. Holding the engine and stalls (spec/70_reset_and_hazards.md R177, R180; 40_control.md R97): going on after the host has acted leaves what
the word leaves when the host had acted before it (`Run.Resumes`), and what the stream commands have done where IN runs out. -/

namespace Sys2Proof.Machine

open Sys2Proof

/-! ### Going on after the host has acted -/

theorem word_zero_add (n : Word) : 0 + n = n := BitVec.zero_add n

/-- The same with another SEQ. -/
def Supply.toward (δ : Supply) (q : Seq) : Supply := { δ with seq := q }

/-- The host changes no count. -/
def Supply.FromHost (δ : Supply) : Prop := δ.ins = 0 ∧ δ.outs = 0

/-- s with what the host adds; SEQ stays. -/
def State.supplied (s : State) (δ : Supply) : State := (δ.toward s.seq).on s

theorem Supply.FromHost.toward_on {δ : Supply} (hδ : δ.FromHost) (q : Seq) (s : State) : (δ.toward q).on s = { s with
    seq := q
    pace := if δ.free then none else s.pace
    inq := s.inq ++ δ.tokens
    sink := if s.sinkRest = none then s.sink ++ δ.answers else s.sink
    sinkRest := s.sinkRest.or δ.rest } := by
  simp only [Supply.on, State.withPorts, Supply.shift, State.ports, Supply.toward, hδ.1, hδ.2, word_zero_add]

/-- A settled run that goes on leaves what the run beside it leaves. -/
theorem resume_supplied {δ : Supply} (hδ : δ.FromHost) {op : Byte} {r q : Run} {t : State} (ht : settle op r = .next t)
    (h : r.Resumes (δ.toward t.seq) q) : (t.supplied δ).resume = settle op q := by
  cases h with
  | ret u =>
    rw [settle_ret] at ht
    obtain rfl := Host.Outcome.next.inj ht
    cases hh : u.held with
    | true => rfl
    | false =>
      rw [settle_ret, Supply.held_on _ hh, Supply.tick_on]
      rfl
  | raised e info u =>
    rw [settle_raised] at ht
    obtain rfl := Host.Outcome.next.inj ht
    cases hh : u.held with
    | true => rfl
    | false =>
      rw [settle_raised, Supply.held_on _ hh, Supply.tick_on]
      rfl
  | reset u =>
    obtain rfl := Host.Outcome.next.inj ht
    rw [State.resume_idle rfl, State.supplied, hδ.toward_on, hδ.toward_on]
    rfl
  | wait pos todo u hs =>
    obtain rfl := Host.Outcome.next.inj ht
    rfl
  | stuck f => cases ht

/-- The engine in a longer command: other counts so far, and SEQ. -/
def Supply.counted (ins outs : Word) (q : Seq) : Supply := ⟨false, [], [], none, ins, outs, q⟩

theorem Supply.counted_plain (ins outs : Word) (q : Seq) : (Supply.counted ins outs q).Plain := ⟨rfl, rfl, rfl, rfl⟩

theorem Supply.counted_on (ins outs : Word) (q : Seq) (s : State) : (Supply.counted ins outs q).on s =
    { s with seq := q, inCount := ins + s.inCount, outCount := outs + s.outCount } := by
  simp [Supply.counted, Supply.on, State.withPorts, Supply.shift, State.ports]

/-- SEQ is overwritten when a run settles. -/
theorem settle_chain_seq (op : Byte) (todo : List Stage) (s : State) (q : Seq) :
    settle op ((Run.ret { s with seq := q }).chain todo) = settle op ((Run.ret s).chain todo) := by
  have hon : ∀ u : State, (Supply.counted 0 0 q).on u = { u with seq := q } := fun u => by
    rw [Supply.counted_on, word_zero_add, word_zero_add]
  have h := chain_resumes (δ := Supply.counted 0 0 q) todo s
  rw [hon] at h
  generalize (Run.ret s).chain todo = r at h
  generalize (Run.ret { s with seq := q }).chain todo = r' at h
  cases h with
  | ret u => rw [hon]; rfl
  | raised e info u => rw [hon]; rfl
  | reset u => rw [hon]; rfl
  | wait pos todo u hs => rw [resumeAt_of_stalls ((Supply.counted_plain 0 0 q).stalls hs), Run.chain_wait, hon]; rfl
  | stuck f => rfl

/-- An accepted word runs its stages in order, the first one too only in an engine that is not held (R92; log 2). -/
theorem launch_eq_chain (op : Byte) (c : Stage) (todo : List Stage) (s : State) : launch op c todo (fun u => (stageBody c u).chain todo) s =
    settle op ((Run.ret (s.accept op (.enter c) todo)).chain (c :: todo)) := by
  rw [Run.chain_cons, Run.andThen_ret]
  unfold launch
  dsimp only
  split
  · rw [Run.chain_wait, List.nil_append]
  · rfl

/-- What a word written to CMD starts, whatever the state: SOFT_RESET, CLEAR_ERR, or stages that are neither. -/
theorem writeCmd_stages {w : Word} (hr : w ≠ 0x00000001) (hc : w ≠ 0x00000002) :
    ∃ c todo, (∀ d ∈ c :: todo, d ≠ .softReset ∧ d ≠ .clearErr) ∧
    ∀ s, writeCmd w s = command (opcodeField w) c todo (fun u => (stageBody c u).chain todo) s := by
  cases hd : decode w with
  | illegal why => exact ⟨_, _, by simp, fun s => (writeCmd_illegal hd s).trans (offerIllegal_command w s)⟩
  | command i =>
    have hw : w = encode i := decode_eq_command_iff_encode.1 hd
    have hir : i ≠ .softReset := by rintro rfl; exact hr hw
    have hic : i ≠ .clearErr := by rintro rfl; exact hc hw
    obtain ⟨c, todo, hplan, -⟩ := exec_command hir hic State.reset
    refine ⟨c, todo, ?_, fun s => ?_⟩
    · rw [← hplan]
      revert hir hic
      cases i <;> decide
    · obtain ⟨c', todo', hplan', heq⟩ := exec_command hir hic s
      obtain ⟨rfl, rfl⟩ := List.cons.inj (hplan.symm.trans hplan')
      rw [writeCmd_command hd, heq, (decode_eq_command.1 hd).2]

section words
variable {δ : Supply} (hδ : δ.FromHost) {s t : State}
include hδ

theorem resume_launch {op : Byte} {c : Stage} {todo : List Stage} (ht : launch op c todo (fun u => (stageBody c u).chain todo) s = .next t) :
    (t.supplied δ).resume = launch op c todo (fun u => (stageBody c u).chain todo) (s.supplied δ) := by
  rw [launch_eq_chain] at ht ⊢
  rw [resume_supplied hδ ht (chain_resumes (c :: todo) _), ← settle_chain_seq op (c :: todo) (State.accept (s.supplied δ) op (.enter c) todo) t.seq,
    State.supplied, hδ.toward_on, hδ.toward_on]
  rfl

variable (hq : s.seq = .idle)
include hq

theorem resume_command {op : Byte} {c : Stage} {todo : List Stage} (ht : command op c todo (fun u => (stageBody c u).chain todo) s = .next t) :
    (t.supplied δ).resume = command op c todo (fun u => (stageBody c u).chain todo) (s.supplied δ) := by
  have hb : (s.supplied δ).busy = false := State.busy_idle hq
  by_cases he : s.errSet = true
  · have he' : (s.supplied δ).errSet = true := he
    rw [command_rejected (.inr he)] at ht
    obtain rfl := Host.Outcome.next.inj ht
    rw [command_rejected (.inr he'), State.resume_idle (s := s.reject.supplied δ) hq]
    rfl
  · have he' : (s.supplied δ).errSet = false := Bool.eq_false_iff.2 he
    rw [command_accepted (State.busy_idle hq) (Bool.eq_false_iff.2 he)] at ht
    rw [command_accepted hb he']
    exact resume_launch hδ ht

/-- For any word written to CMD in an idle block. -/
theorem resume_writeCmd {w : Word} (ht : writeCmd w s = .next t) : (t.supplied δ).resume = writeCmd w (s.supplied δ) := by
  have hb : s.busy = false := State.busy_idle hq
  have hb' : (s.supplied δ).busy = false := State.busy_idle hq
  by_cases hr : w = 0x00000001
  · subst hr
    rw [writeCmd_softReset, exec_softReset, if_neg (Bool.eq_false_iff.1 hb)] at ht
    rw [writeCmd_softReset, exec_softReset, if_neg (Bool.eq_false_iff.1 hb')]
    exact resume_launch hδ ht
  by_cases hc : w = 0x00000002
  · subst hc
    rw [writeCmd_clearErr, exec_clearErr, if_neg (Bool.eq_false_iff.1 hb)] at ht
    rw [writeCmd_clearErr, exec_clearErr, if_neg (Bool.eq_false_iff.1 hb')]
    exact resume_launch hδ ht
  obtain ⟨c, todo, -, heq⟩ := writeCmd_stages hr hc
  rw [heq] at ht ⊢
  exact resume_command hδ hq ht

end words

/-! ### The statements -/

/-- Settles O60: letting the engine run adds nothing but the pace. -/
theorem holdingChangesNothing : Obligations.HoldingChangesNothing := by
  have hword : ∀ (w : Word) (s t : State) (n : Nat), s.seq = .idle → writeCmd w { s with pace := some n } = .next t →
      State.resume { t with pace := none } = writeCmd w { s with pace := none } := fun w s t n hq ht => by
    have hδ : Supply.FromHost ⟨true, [], [], none, 0, 0, .idle⟩ := ⟨rfl, rfl⟩
    have hfree : ∀ u : State, u.supplied ⟨true, [], [], none, 0, 0, .idle⟩ = { u with pace := none } := fun u => by
      rw [State.supplied, hδ.toward_on]
      simp
    have h := resume_writeCmd hδ (s := { s with pace := some n }) hq ht
    rwa [hfree, hfree] at h
  refine ⟨fun i s t n hq ht => ?_, fun w s t n hq ht => ?_⟩
  · have hd : decode (encode i) = .command i := decode_eq_command_iff_encode.2 rfl
    rw [← writeCmd_command hd] at ht ⊢
    exact hword _ s t n hq ht
  · rw [memWrite_cmd] at ht ⊢
    exact hword w s t n hq ht

/-! ### Where IN or the sink's answers run out -/

/-- At such a position, with nothing to take or to answer, the engine can only wait. -/
theorem stalls_of_ports {s : State} {pos : Pos}
    (h : (s.inq = [] ∧ (pos = .count ∨ pos = .packRead ∨ pos = .unpackRead ∨ ∃ p, pos = .parse p)) ∨
      (s.sink = [] ∧ s.sinkRest = none ∧ ((∃ n k, pos = .serialize (some n) (k + 1)) ∨ (∃ k, pos = .serialize none (k + 1) ∧ s.stack ≠ []) ∨
        (pos = .packFlush ∧ s.accN ≠ 0) ∨ (∃ b n, pos = .packBits b (n + 1) ∧ s.accN = 7) ∨ ∃ b n, pos = .unpackEmit b n))) : s.Stalls pos := by
  rcases h with ⟨hq, h⟩ | ⟨hsink, hrest, h⟩
  · have hstarved : s.Starved := .inl hq
    rcases h with rfl | rfl | rfl | ⟨p, rfl⟩ <;> exact hstarved
  · have hunanswered : s.Unanswered := .inr (by rw [State.nextAnswer, hsink, hrest]; rfl)
    rcases h with ⟨n, k, rfl⟩ | ⟨k, rfl, hstack⟩ | ⟨rfl, hn⟩ | ⟨b, n, rfl, hn⟩ | ⟨b, n, rfl⟩
    · exact ⟨by simp [State.serialByte], by simp, hunanswered⟩
    · obtain ⟨e, stack, he⟩ := List.exists_cons_of_ne_nil hstack
      exact ⟨by simp [State.serialByte, he], by simp, hunanswered⟩
    · exact ⟨hn, hunanswered⟩
    · exact ⟨by simp, hn, hunanswered⟩
    · exact hunanswered

/-- A state in which the engine can only wait is its own successor (R177). -/
theorem step_of_stalls {s : State} {op : Byte} {pos : Pos} {todo : List Stage} (hq : s.seq = .running op pos todo) (hh : s.host = [])
    (hp : s.pace = none) (hr : s.inReset = false) (h : s.Stalls pos) : step s = .next s := by
  have hfree : { s with pace := none } = s := by rw [← hp]
  rw [step_no_action hh, runFree_released hr, hfree, State.resume_running hq, resumeAt_of_stalls h, Run.chain_wait, settle_wait, List.nil_append, ← hq]

theorem packLoop_starved {s : State} (h : s.inq = []) : packLoop s = .wait .packRead [] s := by rw [packLoop, h, overTokens_nil]

theorem unpackLoop_starved {s : State} (h : s.inq = []) : unpackLoop s = .wait .unpackRead [] s := by rw [unpackLoop, h, overTokens_nil]

theorem countLoop_starved {s : State} (h : s.inq = []) : countLoop s = .wait .count [] s := by rw [countLoop, h, overTokens_nil]

/-- What UNPACK has done when it comes to the token after the payload bytes. -/
theorem unpackBody_reads {s : State} {tree : CodeTree} {payload : List Byte} {ts : List Token} (hp : s.pace = none) (h : s.HasTree tree)
    (hq : s.inq = payload.map .byte ++ ts) (ha : s.Accepts (tree.unpacked payload).1.length) : unpackBody s = unpackLoop
      { (s.readIn payload.length ts).offered (tree.unpacked payload).1 with cur := s.nodeAt (tree.pending payload) } := by
  have hstart := walksAt_start (s := { s with cur := s.root }) (h.congr rfl rfl) rfl
  rw [tree.unpacked_eq_walk] at ha ⊢
  rw [unpackBody_of_hasTree h, (unpackLoop_walks (by exact hp) hstart payload hq ha).1, tree.pending_eq_walk]
  rfl

/-- What PACK leaves when it waits for the token after these bits (R131). -/
theorem waiting_after_packed (s : State) (bits : List Bool) (n : Nat) (rest : List Token) :
    { ((s.accept 0x60 (.enter .pack) []).clearAcc.readIn n rest).packed bits with seq := .running 0x60 .packRead [] } =
      { s.waitingAt 0x60 .packRead with
        acc := BitVec.ofNat 8 (bitsValue (restBits bits)), accN := BitVec.ofNat 3 (bits.length % 8), inq := rest, inCount := BitVec.ofNat 32 n
        sink := s.sink.drop (bits.length / 8), out := s.out ++ fullBytes bits, outCount := BitVec.ofNat 32 (bits.length / 8) } := by
  simp [State.packed, State.offered, State.waitingAt, State.readIn, State.accept, State.clearAcc]

/-- The answer to later offers is the host's. -/
theorem writeCmd_sinkRest {w : Word} {s t : State} (hq : s.seq = .idle) (ht : writeCmd w s = .next t) : t.sinkRest = s.sinkRest := by
  by_cases hr : w = 0x00000001
  · rw [hr, writeCmd_softReset, exec_softReset_idle (State.busy_idle hq)] at ht
    cases hh : s.held with
    | true =>
      rw [launch_held hh] at ht
      exact Host.Outcome.next.inj ht ▸ rfl
    | false =>
      rw [launch_runs hh] at ht
      exact Host.Outcome.next.inj ht ▸ rfl
  by_cases hc : w = 0x00000002
  · rw [hc, writeCmd_clearErr] at ht
    exact (congrArg State.sinkRest (execClearErr_keeps ht) :)
  obtain ⟨c, todo, hsteady, heq⟩ := writeCmd_stages hr hc
  exact command_keepsPart (F := State.sinkRest) (fun _ => rfl)
    (fun d hd u => (stageBody_keepsSteady (hsteady d hd).1 (hsteady d hd).2 u).imp fun _ hv => (congrArg Prod.snd hv :)) (heq s ▸ ht)

/-- More tokens for a word that has stopped to wait. -/
theorem resume_moreTokens {w : Word} {s t : State} (tokens : List Token) (hq : s.seq = .idle) (ht : memWrite 0x0008 w s = .next t) :
    State.resume { t with inq := t.inq ++ tokens } = memWrite 0x0008 w { s with inq := s.inq ++ tokens } := by
  have hδ : Supply.FromHost ⟨false, tokens, [], none, 0, 0, .idle⟩ := ⟨rfl, rfl⟩
  have hmore : ∀ u : State, u.supplied ⟨false, tokens, [], none, 0, 0, .idle⟩ = { u with inq := u.inq ++ tokens } := fun u => by
    rw [State.supplied, hδ.toward_on]
    simp
  rw [memWrite_cmd] at ht ⊢
  have h := resume_writeCmd hδ hq ht
  rwa [hmore, hmore] at h

/-- More answers for a word that has stopped to wait. -/
theorem resume_moreAnswers {w : Word} {s t : State} (answers : List SinkAnswer) (rest : Option SinkAnswer) (hq : s.seq = .idle)
    (hrest : s.sinkRest = none) (ht : memWrite 0x0008 w s = .next t) : State.resume { t with sink := t.sink ++ answers, sinkRest := rest } =
      memWrite 0x0008 w { s with sink := s.sink ++ answers, sinkRest := rest } := by
  have hδ : Supply.FromHost ⟨false, [], answers, rest, 0, 0, .idle⟩ := ⟨rfl, rfl⟩
  have hmore : ∀ u : State, u.sinkRest = none → u.supplied ⟨false, [], answers, rest, 0, 0, .idle⟩ =
      { u with sink := u.sink ++ answers, sinkRest := rest } := fun u hu => by
    rw [State.supplied, hδ.toward_on, if_pos hu, hu]
    simp
  rw [memWrite_cmd] at ht ⊢
  have h := resume_writeCmd hδ hq ht
  rwa [hmore t ((writeCmd_sinkRest hq ht).trans hrest), hmore s hrest] at h

/-- Settles O11: the waiting positions by `resumeAt_of_stalls`, the partial effects by the loops up to the end of IN, the ends by `resume_writeCmd`. -/
theorem stallsAndTheirEnds : Obligations.StallsAndTheirEnds := by
  refine ⟨fun s op pos todo hq hh hp hr h => step_of_stalls hq hh hp hr (stalls_of_ports h), fun s bytes hs h hq hroom => ?_,
    fun s bytes hs hc hq ha => ?_, fun s tree payload hs h hq ha => ?_, fun w s t tokens hq _ ht => resume_moreTokens tokens hq ht,
    fun w s t answers rest hq _ hrest ht => resume_moreAnswers answers rest hq hrest ht⟩
  · obtain ⟨t, hk, -, hrest, hcount, htotal, heq⟩ := exec_freqCount_counts (rest := []) hs h (by rw [hq, List.append_nil]) hroom
    rw [countLoop_starved hrest, settle_wait] at heq
    refine ⟨_, heq, hk.freq, hk.agree.congr rfl, ?_⟩
    rw [← htotal, ← hcount, ← hrest]
    exact (congrArg (fun u : State => { u with seq := .running 0x11 .count [] }) hk.frame :)
  · rw [exec_pack_reads (ts := []) hs hc (by rw [hq, List.append_nil]) ha, packLoop_starved rfl, settle_wait,
      waiting_after_packed]
    rfl
  · rw [exec_unpack_ready hs, unpackBody_reads (s := s.accept 0x70 (.enter .unpack) []) (ts := []) hs.2.2 (h.congr rfl rfl)
      (by rw [List.append_nil]; exact hq) ha, unpackLoop_starved rfl, settle_wait]
    simp [State.offered, State.waitingAt, State.readIn, State.accept]
    rfl

end Sys2Proof.Machine
end

section
/-! PROOFS. The composites beside the sequence of their sub-commands (spec/48_composite.md R139, R141, R143): a stage of a composite runs as its
command does, but for SEQ and the counts so far (`Supply.counted`). -/

namespace Sys2Proof.Machine

open Sys2Proof

/-! ### The runs beside each other, by their ends -/

theorem Run.Resumes.ret_right {δ : Supply} {v : State} {r : Run} (h : (Run.ret v).Resumes δ r) : r = .ret (δ.on v) := by
  cases h
  rfl

theorem Run.Resumes.raised_right {δ : Supply} {e : ErrorKind} {info : Byte} {v : State} {r : Run} (h : (Run.raised e info v).Resumes δ r) :
    r = .raised e info (δ.on v) := by
  cases h
  rfl

/-- An engine that is let run without limit stays so. -/
theorem stageBody_free {c : Stage} {s : State} (hp : s.pace = none) : (∀ v, stageBody c s = .ret v → v.pace = none) ∧
    ∀ e info v, stageBody c s = .raised e info v → v.pace = none := by
  have hsame : Supply.on ⟨true, [], [], none, 0, 0, s.seq⟩ s = s := by
    simp [Supply.on, State.withPorts, Supply.shift, State.ports, ← hp]
  have h := stageBody_resumes (δ := ⟨true, [], [], none, 0, 0, s.seq⟩) c s
  rw [hsame] at h
  refine ⟨fun v hv => ?_, fun e info v hv => ?_⟩
  · rw [hv] at h
    exact congrArg State.pace (Run.ret.inj h.ret_right)
  · rw [hv] at h
    exact congrArg State.pace (Run.raised.inj h.raised_right).2.2

/-- What a stage leaves as a command of its own, and what it leaves in a composite with these stages still to come (R143). -/
theorem settle_counted {op op' : Byte} {n m : Word} {q : Seq} {r r' : Run} {t : State} {later : List Stage}
    (h : r.Resumes (.counted n m q) r') (hfree : (∀ v, r = .ret v → v.pace = none) ∧ ∀ e info v, r = .raised e info v → v.pace = none)
    (hdone : r.RunsTo (·.done = false)) (ht : settle op r = .next t) (hlater : t.done = false ∨ later = []) :
    settle op' (r'.chain later) = .next (t.inComposite op' n m later) := by
  cases h with
  | ret u =>
    have hp := hfree.1 u rfl
    rw [settle_ret_free _ hp] at ht
    obtain rfl := Host.Outcome.next.inj ht
    obtain rfl : later = [] := hlater.resolve_left (by simp [State.complete])
    rw [Run.chain_nil, Supply.counted_on, settle_ret_free _ (by exact hp)]
    simp [State.inComposite, State.complete]
  | raised e info u =>
    have hp := hfree.2 e info u rfl
    rw [settle_raised_free _ _ _ hp] at ht
    obtain rfl := Host.Outcome.next.inj ht
    rw [Run.chain_raised, Supply.counted_on, settle_raised_free _ _ _ (by exact hp)]
    simp [State.inComposite, State.raiseError, show u.done = false from hdone]
  | reset u => exact hdone.elim
  | wait pos todo u hs =>
    obtain rfl := Host.Outcome.next.inj ht
    rw [resumeAt_of_stalls ((Supply.counted_plain n m q).stalls hs), Supply.counted_on, Run.chain_wait, Run.chain_wait, settle_wait]
    simp [State.inComposite]
  | stuck f => cases ht

/-! ### A command after another one -/

/-- s as a composite finds it in its midst: DONE is 0, the counts are the composite's. -/
def State.underway (s : State) (n m : Word) (q : Seq) : State := { s with seq := q, done := false, inCount := n, outCount := m }

/-- EMPTY_ART and MIDWALK cleared (R92). -/
def State.unflagged (s : State) : State := { s with emptyArt := false, midwalk := false }

theorem State.unflagged_eq {s : State} (he : s.emptyArt = false) (hm : s.midwalk = false) : s.unflagged = s := by
  cases s
  cases he
  cases hm
  rfl

theorem counted_on_accept (s : State) (n m : Word) (q : Seq) (op : Byte) (pos : Pos) (todo : List Stage) :
    (Supply.counted n m q).on (s.accept op pos todo) = s.unflagged.underway n m q := by
  rw [Supply.counted_on]
  simp [State.accept, State.unflagged, State.underway]

section command
variable {i : Instr} {c : Stage} (hplan : Instr.plan i = [c]) (hr : c ≠ .softReset) (hc : c ≠ .clearErr) {s t : State} (hs : s.Ready)
include hplan hr hc hs

theorem exec_stage : exec i s = settle (opcodeOf i) (stageBody c (s.accept (opcodeOf i) (.enter c) [])) := by
  obtain ⟨c', todo, hplan', heq⟩ := exec_command (i := i) (by rintro rfl; exact hr (by simpa [Instr.plan] using hplan.symm))
    (by rintro rfl; exact hc (by simpa [Instr.plan] using hplan.symm)) s
  obtain ⟨rfl, rfl⟩ := List.cons.inj (hplan.symm.trans hplan')
  rw [heq, command_ready hs.1 hs.2.1 hs.2.2]
  rfl

/-- The last sub-command that a composite runs. -/
theorem settle_stage_last (ht : exec i s = .next t) {later : List Stage} (hlater : t.done = false ∨ later = []) (op : Byte) (n m : Word) (q : Seq) :
    settle op ((Run.ret (s.unflagged.underway n m q)).chain (c :: later)) = .next (t.inComposite op n m later) := by
  rw [exec_stage hplan hr hc hs] at ht
  rw [Run.chain_cons, Run.andThen_free (by exact hs.2.2), ← counted_on_accept s n m q (opcodeOf i) (.enter c) []]
  exact settle_counted (stageBody_resumes c _) (stageBody_free (by exact hs.2.2))
    ((stageBody_keepsSteady hr hc _).imp fun v hv => (congrArg (·.1.1) hv :)) ht hlater

/-- A sub-command that completes. -/
theorem chain_stage (ht : exec i s = .next t) (hseq : t.seq = .idle) (hd : t.done = true) : t.Ready ∧
    (∃ v, stageBody c (s.accept (opcodeOf i) (.enter c) []) = .ret v ∧ t = v.complete) ∧
    ∀ n m q later, (Run.ret (s.unflagged.underway n m q)).chain (c :: later) =
      (Run.ret (t.underway (n + t.inCount) (m + t.outCount) q)).chain later := by
  rw [exec_stage hplan hr hc hs] at ht
  have hsteady := stageBody_keepsSteady hr hc (s.accept (opcodeOf i) (.enter c) [])
  have hfree := stageBody_free (c := c) (s := s.accept (opcodeOf i) (.enter c) []) (by exact hs.2.2)
  have hres := fun n m q => stageBody_resumes (δ := .counted n m q) c (s.accept (opcodeOf i) (.enter c) [])
  cases hbody : stageBody c (s.accept (opcodeOf i) (.enter c) []) with
  | ret v =>
    rw [hbody] at ht hsteady hres
    have hp := hfree.1 v hbody
    have hdone : v.done = false := (congrArg (·.1.1) hsteady :)
    have herr : v.err = s.err := (congrArg (·.1.2.2) hsteady :)
    rw [settle_ret_free _ hp] at ht
    obtain rfl := Host.Outcome.next.inj ht
    refine ⟨⟨rfl, (congrArg ErrRecord.code herr).trans hs.2.1, hp⟩, ⟨v, rfl, rfl⟩, fun n m q later => ?_⟩
    rw [Run.chain_cons, Run.andThen_free (by exact hs.2.2), ← counted_on_accept s n m q (opcodeOf i) (.enter c) [], (hres n m q).ret_right,
      Supply.counted_on]
    simp [State.underway, State.complete, hdone]
  | raised e info v =>
    rw [hbody] at ht hsteady
    rw [settle_raised_free _ _ _ (hfree.2 e info v hbody)] at ht
    have hdone : v.done = false := (congrArg (·.1.1) hsteady :)
    obtain rfl := Host.Outcome.next.inj ht
    exact absurd (hd.symm.trans hdone) (by decide)
  | reset v =>
    rw [hbody] at hsteady
    exact hsteady.elim
  | wait pos todo v =>
    rw [hbody] at ht
    obtain rfl := Host.Outcome.next.inj ht
    cases hseq
  | stuck f =>
    rw [hbody] at ht
    cases ht

end command

/-! ### COMPRESS (R139, R143) -/

/-- The stage of a command that is no composite. -/
def commandStage (i : Instr) : Stage := (Instr.plan i).headD .nop

theorem compressCommand_plan {i : Instr} (hi : i ∈ compressCommands) :
    Instr.plan i = [commandStage i] ∧ commandStage i ≠ .softReset ∧ commandStage i ≠ .clearErr ∧ commandStage i ∈ Instr.plan .compress := by
  revert i
  decide

/-- A sub-command of COMPRESS that completes leaves EMPTY_ART and MIDWALK cleared. -/
theorem chain_compressCommand {i : Instr} (hi : i ∈ compressCommands) {s t : State} (hs : s.Ready) (ht : exec i s = .next t) (hseq : t.seq = .idle)
    (hd : t.done = true) : t.Ready ∧ ∀ n m q later, (Run.ret (s.unflagged.underway n m q)).chain ((commandStage i) :: later) =
      (Run.ret (t.unflagged.underway (n + t.inCount) (m + t.outCount) q)).chain later := by
  obtain ⟨hplan, hr, hc, hstage⟩ := compressCommand_plan hi
  obtain ⟨hready, ⟨v, hv, rfl⟩, hchain⟩ := chain_stage hplan hr hc hs ht hseq hd
  have hkeeps := compressStage_keeps hstage (s.accept (opcodeOf i) (.enter (commandStage i)) [])
  rw [hv] at hkeeps
  have hempty : v.emptyArt = false := (congrArg (·.2.1) hkeeps :)
  have hmid : v.midwalk = false := (congrArg (·.2.2.1) hkeeps :)
  rw [State.unflagged_eq (s := v.complete) hempty hmid]
  exact ⟨hready, hchain⟩

theorem chain_completes {is : List Instr} (hsub : ∀ i ∈ is, i ∈ compressCommands) {s t : State} {n m : Word} (hs : s.Ready)
    (h : Completes is s n m t) : t.Ready ∧ ∀ n' m' q later, (Run.ret (s.unflagged.underway n' m' q)).chain (is.map commandStage ++ later) =
      (Run.ret (t.unflagged.underway (n' + n) (m' + m) q)).chain later := by
  induction is generalizing s n m with
  | nil =>
    obtain ⟨rfl, rfl, rfl⟩ := h
    exact ⟨hs, fun n' m' q later => by simp⟩
  | cons i is ih =>
    obtain ⟨s1, n1, m1, hi, hseq, hd, hrest, rfl, rfl⟩ := h
    obtain ⟨hready, hfirst⟩ := chain_compressCommand (hsub i List.mem_cons_self) hs hi hseq hd
    obtain ⟨htready, hlast⟩ := ih (fun j hj => hsub j (List.mem_cons_of_mem _ hj)) hready hrest
    refine ⟨htready, fun n' m' q later => ?_⟩
    rw [List.map_cons, List.cons_append, hfirst, hlast, BitVec.add_assoc, BitVec.add_assoc]

theorem completes_concat {is : List Instr} {i : Instr} {s t : State} {n m : Word} (h : Completes (is ++ [i]) s n m t) :
    ∃ s1 n1 m1, Completes is s n1 m1 s1 ∧ exec i s1 = .next t ∧ t.seq = .idle ∧ t.done = true ∧ n = n1 + t.inCount ∧ m = m1 + t.outCount := by
  induction is generalizing s n m with
  | nil =>
    obtain ⟨s1, n1, m1, hi, hseq, hd, ⟨rfl, rfl, rfl⟩, rfl, rfl⟩ := h
    exact ⟨s, 0, 0, ⟨rfl, rfl, rfl⟩, hi, hseq, hd, by rw [word_zero_add]; exact BitVec.add_zero _, by rw [word_zero_add]; exact BitVec.add_zero _⟩
  | cons j is ih =>
    obtain ⟨s1, n1, m1, hj, hseq1, hd1, hrest, rfl, rfl⟩ := h
    obtain ⟨s2, n2, m2, his, hi, hseq, hd, rfl, rfl⟩ := ih hrest
    exact ⟨s2, _, _, ⟨s1, n2, m2, hj, hseq1, hd1, his, rfl, rfl⟩, hi, hseq, hd, (BitVec.add_assoc _ _ _).symm, (BitVec.add_assoc _ _ _).symm⟩

theorem exec_compress_chain {s : State} (hs : s.Ready) : exec .compress s = settle 0x80 ((Run.ret
    (s.unflagged.underway 0 0 (.running 0x80 (.enter .freqClear) compressRest))).chain (compressCommands.map commandStage)) := by
  obtain ⟨c, todo, hplan, heq⟩ := exec_command (i := .compress) (by decide) (by decide) s
  obtain ⟨rfl, rfl⟩ := List.cons.inj hplan
  rw [heq, command_accepted (State.busy_idle hs.1) (State.errSet_eq_false_iff.2 hs.2.1), launch_eq_chain]
  rfl

/-- COMPRESS up to the last sub-command it runs. -/
theorem exec_compress_after {s s1 t : State} {before later : List Instr} {i : Instr} {n m : Word} (hs : s.Ready)
    (hsplit : before ++ i :: later = compressCommands) (hbefore : Completes before s n m s1) (ht : exec i s1 = .next t)
    (hlater : t.done = false ∨ later = []) : exec .compress s = .next (t.inComposite 0x80 n m (later.map commandStage)) := by
  have hi : i ∈ compressCommands := by simp [← hsplit]
  obtain ⟨hplan, hr, hc, -⟩ := compressCommand_plan hi
  obtain ⟨hready, hchain⟩ := chain_completes (fun j hj => by simp [← hsplit, hj]) hs hbefore
  rw [exec_compress_chain hs, ← hsplit, List.map_append, hchain, word_zero_add, word_zero_add, List.map_cons]
  exact settle_stage_last hplan hr hc hready ht (hlater.imp_right (by rintro rfl; rfl)) 0x80 n m _

theorem compressRest_drop {before later : List Instr} {i : Instr} (hsplit : before ++ i :: later = compressCommands) :
    compressRest.drop before.length = later.map commandStage := by
  have hplan : before.map commandStage ++ (commandStage i) :: later.map commandStage = .freqClear :: compressRest := by
    rw [← List.map_cons, ← List.map_append, hsplit]
    rfl
  calc compressRest.drop before.length = (Stage.freqClear :: compressRest).drop (before.length + 1) := rfl
    _ = later.map commandStage := by rw [← hplan, ← List.length_map (f := commandStage), List.drop_length_add_append]; rfl

/-- Settles O39: the last of the seven, or the one that raises or waits, ends the composite too. -/
theorem compressEqualsSequence : Obligations.CompressEqualsSequence := by
  refine ⟨fun s t n m hs h => ?_, fun s s1 t before later i n m hs hsplit hbefore ht hd => ?_⟩
  · obtain ⟨s1, n1, m1, hinit, hlast, hseq, hd, rfl, rfl⟩ := completes_concat (is := compressCommands.dropLast) (i := .pack) h
    rw [exec_compress_after (later := []) hs rfl hinit hlast (.inr rfl)]
    simp [State.inComposite, hseq, hd]
  · rw [compressRest_drop hsplit]
    exact exec_compress_after hs hsplit hbefore ht (.inl hd)

/-! ### DECOMPRESS (R141, R143) -/

theorem exec_decompress_chain {s : State} (hs : s.Ready) : exec .decompress s = settle 0x81 ((Run.ret
    (s.unflagged.underway 0 0 (.running 0x81 (.enter .treeDeserialize) decompressRest))).chain (.treeDeserialize :: decompressRest)) := by
  obtain ⟨c, todo, hplan, heq⟩ := exec_command (i := .decompress) (by decide) (by decide) s
  obtain ⟨rfl, rfl⟩ := List.cons.inj hplan
  rw [heq, command_accepted (State.busy_idle hs.1) (State.errSet_eq_false_iff.2 hs.2.1), launch_eq_chain]
  rfl

/-- Settles O40: TREE_DESERIALIZE ends the composite or is followed by UNPACK unless EMPTY_ART is 1 (`chain_stage`, `settle_stage_last`). -/
theorem decompressEqualsSequence : Obligations.DecompressEqualsSequence := by
  refine ⟨fun s t hs ht hd => ?_, fun s s1 n m hs h => ?_⟩
  · rw [exec_decompress_chain hs]
    exact settle_stage_last (i := .treeDeserialize) rfl (by decide) (by decide) hs ht (.inl hd) _ _ _ _
  obtain ⟨u, n1, m1, hi, hseq, hd, ⟨rfl, rfl, rfl⟩, rfl, rfl⟩ := h
  obtain ⟨hready, ⟨v, hv, rfl⟩, hchain⟩ := chain_stage (i := .treeDeserialize) rfl (by decide) (by decide) hs hi hseq hd
  have hmid : v.midwalk = false := by
    have hkeeps := treeDeserializeBody_keeps (s.accept (opcodeOf .treeDeserialize) (.enter .treeDeserialize) [])
    rw [show treeDeserializeBody _ = _ from hv] at hkeeps
    exact (congrArg State.midwalk hkeeps :)
  rw [exec_decompress_chain hs, hchain, word_zero_add, word_zero_add, decompressRest, Run.chain_cons, Run.andThen_free (by exact hready.2.2)]
  refine ⟨fun hempty => ?_, fun t hempty ht => ?_⟩
  · rw [stageBody, unpackUnlessEmptyBody, if_pos (by exact hempty), Run.chain_nil, settle_ret_free _ (by exact hready.2.2)]
    rfl
  · have hflags : v.complete.unflagged = v.complete := State.unflagged_eq hempty hmid
    have hbody : unpackUnlessEmptyBody (v.complete.underway v.complete.inCount v.complete.outCount
        (.running 0x81 (.enter .treeDeserialize) [.unpackUnlessEmpty])) = stageBody .unpack (v.complete.underway v.complete.inCount
          v.complete.outCount (.running 0x81 (.enter .treeDeserialize) [.unpackUnlessEmpty])) :=
      if_neg (Bool.eq_false_iff.1 hempty)
    have hlast := settle_stage_last (i := .unpack) (later := []) rfl (by decide) (by decide) hready ht (.inr rfl) 0x81 v.complete.inCount
      v.complete.outCount (.running 0x81 (.enter .treeDeserialize) [.unpackUnlessEmpty])
    rw [hflags, Run.chain_cons, Run.andThen_free (by exact hready.2.2)] at hlast
    rw [stageBody, hbody, hlast, show v.complete.inCount + 0 = v.complete.inCount from BitVec.add_zero _,
      show v.complete.outCount + 0 = v.complete.outCount from BitVec.add_zero _]

end Sys2Proof.Machine
end

section
/-! PROOFS. DECOMPRESS of a header and a payload, and a `Fail` in each command that reads IN (spec/48_composite.md R141; 60_exceptions.md R146, R150 to
R152). -/

namespace Sys2Proof.Machine

open Sys2Proof

/-! ### A `Fail` at the front of IN (R146) -/

section fail
variable {s : State} {ts : List Token} (hp : s.pace = none) (hq : s.inq = .fail :: ts)
include hp

theorem overTokens_fail {σ : Type} {pos : σ → Pos} {body : σ → Token → State → LoopStep σ} {x : σ}
    (hb : ∀ u, body x .fail u = .stop (.raised .srcIo 0 u)) : overTokens pos body (.fail :: ts) x s = .raised .srcIo 0 { s with inq := ts } := by
  rw [overTokens_stop (State.held_none hp) (hb _), State.consume, State.tick_none hp]

include hq

theorem parseLoop_fail (pt : ParsePoint) : parseLoop pt s = .raised .srcIo 0 { s with inq := ts } := by
  rw [parseLoop, hq, overTokens_fail hp fun _ => rfl]

theorem packLoop_fail : packLoop s = .raised .srcIo 0 { s with inq := ts } := by
  rw [packLoop, hq, overTokens_fail hp fun _ => rfl]

theorem unpackLoop_fail : unpackLoop s = .raised .srcIo 0 { s with inq := ts } := by
  rw [unpackLoop, hq, overTokens_fail hp fun _ => rfl]

end fail

/-! ### COMPRESS and DECOMPRESS in a ready block -/

theorem exec_compress_ready {s : State} (h : s.Ready) :
    exec .compress s = settle 0x80 (compressBody (s.accept 0x80 (.enter .freqClear) compressRest)) := command_ready h.1 h.2.1 h.2.2

theorem exec_decompress_ready {s : State} (h : s.Ready) :
    exec .decompress s = settle 0x81 (decompressBody (s.accept 0x81 (.enter .treeDeserialize) decompressRest)) := command_ready h.1 h.2.1 h.2.2

theorem compressBody_fail {s : State} {ts : List Token} (hp : s.pace = none) (hq : s.inq = .fail :: ts) :
    compressBody s = .raised .srcIo 0 { s.clearFreq with inq := ts } := by
  have hcount : freqCountBody s.clearFreq = .raised .srcIo 0 { s.clearFreq with inq := ts } := countLoop_fail (by exact hp) hq
  rw [compressBody, freqClearBody, compressRest, Run.chain_cons, Run.andThen_free (by exact hp), stageBody, hcount, Run.chain_raised]

theorem treeDeserializeBody_fail {s : State} {ts : List Token} (hp : s.pace = none) (hq : s.inq = .fail :: ts) :
    treeDeserializeBody s = .raised .srcIo 0 { s.beforeHeader with inq := ts } := parseLoop_fail (s := s.beforeHeader) hp hq .first

theorem decompressBody_fail {s : State} {ts : List Token} (hp : s.pace = none) (hq : s.inq = .fail :: ts) :
    decompressBody s = .raised .srcIo 0 { s.beforeHeader with inq := ts } := by
  rw [decompressBody, treeDeserializeBody_fail hp hq, Run.chain_raised]

/-! ### As the first token -/

/-- What a raise of E_SRC_IO leaves (R150). -/
theorem failed_of_settle {s u : State} {op : Byte} {r : Run} {ts : List Token} (hr : r = .raised .srcIo 0 u) (hp : u.pace = none)
    (hd : u.done = false) (hq : u.inq = ts) (ho : u.out = s.out) : ∃ t, settle op r = .next t ∧ t.seq = .idle ∧ t.done = false ∧
      t.err = ⟨0x01, op, 0, 1⟩ ∧ t.inq = ts ∧ t.out = s.out :=
  ⟨u.raiseError op .srcIo 0, by rw [hr, settle_raised_free _ _ _ hp], rfl, hd, rfl, hq, ho⟩

theorem exec_fail_first {i : Instr} {s : State} {rest : List Token} (hs : s.Ready) (hq : s.inq = .fail :: rest)
    (hi : i = .freqCount ∨ i = .treeDeserialize ∨ i = .pack ∨ i = .compress ∨ i = .decompress ∨ (i = .unpack ∧ s.root ≠ 511)) :
    ∃ t, exec i s = .next t ∧ t.seq = .idle ∧ t.done = false ∧ t.err = ⟨0x01, opcodeOf i, 0, 1⟩ ∧ t.inq = rest ∧ t.out = s.out := by
  obtain rfl | rfl | rfl | rfl | rfl | ⟨rfl, hroot⟩ := hi
  · rw [exec_freqCount_ready hs]
    exact failed_of_settle (countLoop_fail hs.2.2 hq) hs.2.2 rfl rfl rfl
  · rw [exec_treeDeserialize_ready hs]
    exact failed_of_settle (treeDeserializeBody_fail (s := State.accept _ _ _ _) hs.2.2 hq) hs.2.2 rfl rfl rfl
  · rw [exec_pack_ready hs, packed_nil]
    exact failed_of_settle (packLoop_fail (s := State.clearAcc _) hs.2.2 hq) hs.2.2 rfl rfl rfl
  · rw [exec_compress_ready hs]
    exact failed_of_settle (compressBody_fail (s := State.accept _ _ _ _) hs.2.2 hq) hs.2.2 rfl rfl rfl
  · rw [exec_decompress_ready hs]
    exact failed_of_settle (decompressBody_fail (s := State.accept _ _ _ _) hs.2.2 hq) hs.2.2 rfl rfl rfl
  · rw [exec_unpack_ready hs, unpackBody, if_neg (by exact hroot)]
    exact failed_of_settle (unpackLoop_fail (by exact hs.2.2) hq) hs.2.2 rfl rfl rfl

/-! ### After bytes -/

/-- In PACK (R130, R131). -/
theorem exec_pack_fail {s : State} {bytes : List Byte} {rest : List Token} (hs : s.Ready) (hc : ∀ b ∈ bytes, s.codeLenOf b ≠ 0)
    (hq : s.inq = bytes.map .byte ++ .fail :: rest) (ha : s.Accepts ((s.payloadBits bytes).length / 8)) :
    exec .pack s = .next { s.failedWith 0x60 .srcIo 0 with
      acc := BitVec.ofNat 8 (bitsValue (restBits (s.payloadBits bytes))), accN := BitVec.ofNat 3 ((s.payloadBits bytes).length % 8), inq := rest
      inCount := BitVec.ofNat 32 bytes.length, sink := s.sink.drop ((s.payloadBits bytes).length / 8)
      out := s.out ++ fullBytes (s.payloadBits bytes), outCount := BitVec.ofNat 32 ((s.payloadBits bytes).length / 8) } := by
  rw [exec_pack_reads hs hc hq ha, packLoop_fail (by exact hs.2.2) rfl, settle_raised_free _ _ _ (by exact hs.2.2),
    ← raiseError_after_packed]
  rfl

/-- In UNPACK (R134, R135). -/
theorem exec_unpack_fail {s : State} {tree : CodeTree} {payload : List Byte} {rest : List Token} (hs : s.Ready) (h : s.HasTree tree)
    (hq : s.inq = payload.map .byte ++ .fail :: rest) (ha : s.Accepts (tree.unpacked payload).1.length) :
    exec .unpack s = .next { s.failedWith 0x70 .srcIo 0 with
      cur := s.nodeAt (tree.pending payload), inq := rest, inCount := BitVec.ofNat 32 payload.length
      sink := s.sink.drop (tree.unpacked payload).1.length, out := s.out ++ (tree.unpacked payload).1
      outCount := BitVec.ofNat 32 (tree.unpacked payload).1.length } := by
  rw [exec_unpack_ready hs, unpackBody_reads (s := s.accept 0x70 (.enter .unpack) []) hs.2.2 (h.congr rfl rfl) hq ha,
    unpackLoop_fail (by exact hs.2.2) rfl, settle_raised_free _ _ _ (by exact hs.2.2)]
  simp [State.offered, State.raiseError, State.failedWith, State.readIn, State.accept]
  rfl

/-! ### DECOMPRESS of a header and then other tokens (R141) -/

/-- s once a header has been read that holds the tree (R125, R128). -/
structure State.Rebuilt (s : State) (tree : CodeTree) (ts : List Token) (u : State) : Prop where
  hasTree : u.HasTree tree
  root : u.root = 256
  live : u.live = 0
  inCount : u.inCount = s.inCount + BitVec.ofNat 32 tree.header.length
  frame : u = { s with
    node := u.node, nextInt := u.nextInt, root := u.root, heap := u.heap, heapSize := u.heapSize, stack := u.stack
    inq := ts, inCount := u.inCount }

theorem treeDeserializeBody_rebuilds {s : State} {tree : CodeTree} {ts : List Token} (hp : s.pace = none) (hnode : tree.isNode = true)
    (hsize : tree.internals ≤ 255) (hq : s.inq = tree.header.map .byte ++ ts) :
    ∃ u, treeDeserializeBody s = .ret u ∧ s.Rebuilt tree ts u := by
  obtain ⟨u, hbody, hframe, hinq, hcount, -, -, hdenotes⟩ := treeDeserializeBody_builds hp hnode hsize hq
  refine ⟨_, hbody, ⟨hnode, hsize, hdenotes _ rfl⟩, rfl, (congrArg State.live hframe :), hcount, ?_⟩
  rw [← hinq]
  exact (congrArg (fun v : State => { v with
    node := u.node, nextInt := u.nextInt, root := 256, heap := u.heap, heapSize := u.heapSize, inq := u.inq, inCount := u.inCount
    stack := u.stack }) hframe :)

theorem decompressBody_rebuilds {s : State} {tree : CodeTree} {ts : List Token} (hp : s.pace = none) (hempty : s.emptyArt = false)
    (hnode : tree.isNode = true) (hsize : tree.internals ≤ 255) (hq : s.inq = tree.header.map .byte ++ ts) :
    ∃ u, decompressBody s = unpackBody u ∧ s.Rebuilt tree ts u := by
  obtain ⟨u, hbody, hu⟩ := treeDeserializeBody_rebuilds hp hnode hsize hq
  have hpu : u.pace = none := (congrArg State.pace hu.frame).trans hp
  have heu : u.emptyArt = false := (congrArg State.emptyArt hu.frame).trans hempty
  refine ⟨u, ?_, hu⟩
  rw [decompressBody, hbody, decompressRest, Run.chain_cons, Run.chain_nil, Run.andThen_free hpu, stageBody, unpackUnlessEmptyBody,
    if_neg (Bool.eq_false_iff.1 heu)]

theorem State.Rebuilt.accepts {s u : State} {tree : CodeTree} {ts : List Token} {n : Nat} (h : s.Rebuilt tree ts u) (ha : s.Accepts n) :
    u.Accepts n := by
  have hanswer : u.answerAt = s.answerAt := (congrArg State.answerAt h.frame :)
  exact fun k hk => (congrFun hanswer k).trans (ha k hk)

/-- The `Byte` tokens of a header and a payload. -/
theorem State.Rebuilt.inCount_readIn {s u : State} {tree : CodeTree} {ts : List Token} (h : s.Rebuilt tree ts u) (payload : List Byte) (us : List Token) :
    (u.readIn payload.length us).inCount = s.inCount + BitVec.ofNat 32 (tree.header ++ payload).length := by
  rw [List.length_append, BitVec.ofNat_add, ← BitVec.add_assoc, ← h.inCount, State.readIn]

/-- Settles O38: the header rebuilds the tree, and the payload walks it. -/
theorem decompressDecodesArtifact : Obligations.DecompressDecodesArtifact := by
  intro s tree payload rest hs hnode hsize hq ha
  obtain ⟨u, hbody, hu⟩ := decompressBody_rebuilds (s := s.accept 0x81 (.enter .treeDeserialize) decompressRest) (ts := passOf payload rest)
    hs.2.2 rfl hnode hsize (by simpa [passOf] using hq)
  have hp : u.pace = none := (congrArg State.pace hu.frame).trans hs.2.2
  have hinq : u.inq = passOf payload rest := congrArg State.inq hu.frame
  have hcount := hu.inCount_readIn payload rest
  have hwalk := unpackBody_walks hp hu.hasTree hinq (hu.accepts (s := s.accept 0x81 (.enter .treeDeserialize) decompressRest) ha)
  have hexec := (exec_decompress_ready hs).trans ((congrArg _ (hbody.trans hwalk)).trans (settle_ret_free _ (by exact hp)))
  refine ⟨_, hexec, hu.hasTree.congr rfl rfl, hu.root, hu.live, rfl, ?_⟩
  refine (congrArg (fun v : State => State.complete { (v.readIn payload.length rest).offered (tree.unpacked payload).1 with
    cur := u.nodeAt (tree.pending payload), midwalk := (tree.unpacked payload).2 }) hu.frame).trans ?_
  simpa [State.complete, State.completed, State.offered, State.readIn, State.accept] using hcount

/-- A `Fail` in the payload of DECOMPRESS leaves the tree, the walked bytes and CUR where the walk stands (R134, R135). -/
theorem exec_decompress_fail {s : State} {tree : CodeTree} {payload : List Byte} {rest : List Token} (hs : s.Ready) (hnode : tree.isNode = true)
    (hsize : tree.internals ≤ 255) (hq : s.inq = (tree.header ++ payload).map .byte ++ .fail :: rest)
    (ha : s.Accepts (tree.unpacked payload).1.length) : ∃ t, exec .decompress s = .next t ∧ t.HasTree tree ∧ t.root = 256 ∧ t.live = 0 ∧
      t = { s.failedWith 0x81 .srcIo 0 with
        node := t.node, nextInt := t.nextInt, root := t.root, heap := t.heap, heapSize := t.heapSize, stack := t.stack
        cur := t.nodeAt (tree.pending payload), inq := rest, inCount := BitVec.ofNat 32 (tree.header ++ payload).length
        sink := s.sink.drop (tree.unpacked payload).1.length, out := s.out ++ (tree.unpacked payload).1
        outCount := BitVec.ofNat 32 (tree.unpacked payload).1.length } := by
  obtain ⟨u, hbody, hu⟩ := decompressBody_rebuilds (s := s.accept 0x81 (.enter .treeDeserialize) decompressRest)
    (ts := payload.map .byte ++ .fail :: rest) hs.2.2 rfl hnode hsize (by simpa using hq)
  have hp : u.pace = none := (congrArg State.pace hu.frame).trans hs.2.2
  have hinq : u.inq = payload.map .byte ++ .fail :: rest := congrArg State.inq hu.frame
  have hcount := hu.inCount_readIn payload rest
  have hwalk := (unpackBody_reads hp hu.hasTree hinq (hu.accepts (s := s.accept 0x81 (.enter .treeDeserialize) decompressRest) ha)).trans
    (unpackLoop_fail (by exact hp) rfl)
  have hexec := (exec_decompress_ready hs).trans ((congrArg _ (hbody.trans hwalk)).trans (settle_raised_free _ _ _ (by exact hp)))
  refine ⟨_, hexec, hu.hasTree.congr rfl rfl, hu.root, hu.live, ?_⟩
  refine (congrArg (fun v : State => State.raiseError { (v.readIn payload.length rest).offered (tree.unpacked payload).1 with
    cur := u.nodeAt (tree.pending payload) } 0x81 .srcIo 0) hu.frame).trans ?_
  simp only [State.raiseError, State.failedWith, State.offered, State.readIn, State.accept, word_zero_add] at hcount ⊢
  rw [hcount]
  rfl

/-! ### COMPRESS after an empty first pass (R140) -/

/-- p once the stages up to CODES_DERIVE have found an empty pass: no tree, no counts, no codes. -/
structure State.Untabled (s : State) (ts : List Token) (p : State) : Prop where
  root : p.root = Config.nil
  live : p.live = 0
  counts : p.total = 0 ∧ p.nsym = 0 ∧ ∀ v, p.freqOf v = 0
  codes : ∀ v, p.codeLenOf v = 0 ∧ p.codeBitsOf v = 0
  frame : p = { s with
    freq := p.freq, total := p.total, nsym := p.nsym, node := p.node, nextInt := p.nextInt, root := p.root, heap := p.heap
    heapSize := p.heapSize, codeLen := p.codeLen, codeBits := p.codeBits, stack := p.stack, inq := ts }

theorem usedSymbols_eq_nil {s : State} (h : ∀ v, s.freqOf v = 0) : s.usedSymbols = [] := by simp [State.usedSymbols_eq, h]

theorem live_buildHeap (s : State) : s.buildHeap.live = s.usedSymbols.length := by
  obtain ⟨-, htail, hperm⟩ := buildHeap_law s
  rw [← State.length_liveHeap htail.1, hperm.length_eq, List.length_map]

/-- The stages up to CODES_DERIVE, once FREQ_COUNT has returned. -/
theorem makeTables_of_counted {s c : State} (hp : s.pace = none) (hc : freqCountBody s.clearFreq = .ret c) (hpc : c.pace = none) :
    makeTables s = (Run.ofExcept c.buildHeap.treeBuild).andThen .codesDerive := by
  have hpb : c.buildHeap.pace = none := (congrArg State.pace (buildHeap_law c).1.lessTree).trans hpc
  rw [makeTables, freqClearBody, Run.chain_cons, Run.chain_cons, Run.chain_cons, Run.chain_cons, Run.chain_nil, Run.andThen_free (by exact hp), stageBody,
    hc, Run.andThen_free hpc, stageBody, heapBuildBody, Run.andThen_free hpb, stageBody, treeBuildBody]

theorem makeTables_empty {s : State} {ts : List Token} (hp : s.pace = none) (hq : s.inq = .endOfPass :: ts) :
    ∃ p, makeTables s = .ret p ∧ s.Untabled ts p := by
  have hcount : freqCountBody s.clearFreq = .ret { s.clearFreq with inq := ts } := countLoop_endOfPass (by exact hp) hq
  have hfreq : ∀ v, State.freqOf { s.clearFreq with inq := ts } v = 0 := fun v => Table.get_fill _ _
  have hmake := makeTables_of_counted hp hcount hp
  have hheap : HeapOnly _ (State.buildHeap { s.clearFreq with inq := ts }) := (buildHeap_law { s.clearFreq with inq := ts }).1
  have hlive := live_buildHeap { s.clearFreq with inq := ts }
  rw [usedSymbols_eq_nil hfreq, List.length_nil] at hlive
  generalize State.buildHeap { s.clearFreq with inq := ts } = b at hheap hlive hmake
  have hpb : b.pace = none := (congrArg State.pace hheap.lessTree).trans hp
  rw [State.treeBuild_empty hlive, Run.ofExcept, Run.andThen_free (by exact hpb), stageBody, codesDeriveBody, State.deriveCodes_nil rfl] at hmake
  refine ⟨_, hmake, rfl, hlive, ⟨(congrArg State.total hheap.lessTree :), (congrArg State.nsym hheap.lessTree :), fun v => ?_⟩,
    fun v => ⟨Table.get_fill _ _, Table.get_fill _ _⟩, ?_⟩
  · exact ((congrArg (·.freqOf v) hheap.lessTree :) : b.freqOf v = _).trans (hfreq v)
  · exact (congrArg (fun u : State => { u with
      freq := b.freq, total := b.total, nsym := b.nsym, node := b.node, nextInt := b.nextInt, heap := b.heap, heapSize := b.heapSize
      root := Config.nil, codeLen := .fill 256 0, codeBits := .fill 256 0, stack := [] }) hheap :)

/-- COMPRESS's body after an empty pass: PACK with no codes. -/
theorem compressBody_empty {s : State} {ts : List Token} (hp : s.pace = none) (hq : s.inq = .endOfPass :: ts) :
    ∃ p, compressBody s = packLoop (p.clearAcc.packed []) ∧ s.Untabled ts p ∧ p.pace = none := by
  obtain ⟨p, hmake, htables⟩ := makeTables_empty hp hq
  have hpp : p.pace = none := (congrArg State.pace htables.frame).trans hp
  refine ⟨p, ?_, htables, hpp⟩
  rw [compressBody_eq, hmake, Run.andThen_free hpp, stageBody, treeSerializeBody, if_pos htables.root, Run.andThen_free hpp, packed_nil]
  rfl

/-- What COMPRESS of an empty pass raises at the next token, with nothing out (R140). -/
theorem exec_compress_empty_raises {s : State} {ts rest : List Token} {e : ErrorKind} {info : Byte} {n : Nat} (hs : s.Ready)
    (hq : s.inq = .endOfPass :: ts) (hpack : ∀ p : State, p.pace = none → (∀ v, p.codeLenOf v = 0) → p.inq = ts →
      packLoop (p.clearAcc.packed []) = .raised e info ((p.clearAcc.readIn n rest).packed [])) :
    ∃ t, exec .compress s = .next t ∧ t.seq = .idle ∧ t.done = false ∧ t.err = ⟨e.code, 0x80, info, e.cls⟩ ∧ t.inq = rest ∧ t.out = s.out ∧
      t.root = 511 ∧ t.acc = 0 ∧ t.accN = 0 ∧ t.inCount = BitVec.ofNat 32 n ∧ t.outCount = 0 := by
  obtain ⟨p, hbody, htables, hp⟩ := compressBody_empty (s := s.accept 0x80 (.enter .freqClear) compressRest) hs.2.2 hq
  have hinq : p.inq = ts := congrArg State.inq htables.frame
  have hraise := hpack p hp (fun v => (htables.codes v).1) hinq
  have hexec := (exec_compress_ready hs).trans ((congrArg _ (hbody.trans hraise)).trans (settle_raised_free _ _ _ (by exact hp)))
  have hdone : p.done = false := (congrArg State.done htables.frame :)
  have hin : p.inCount = 0 := (congrArg State.inCount htables.frame :)
  have hcount : p.outCount = 0 := (congrArg State.outCount htables.frame :)
  have hout : p.out = s.out := (congrArg State.out htables.frame :)
  refine ⟨_, hexec, rfl, hdone, rfl, rfl, ?_, htables.root, rfl, rfl, ?_, ?_⟩
  · exact (congrArg State.out (packed_nil (p.readIn n rest)) :).trans hout
  · exact (congrArg (· + BitVec.ofNat 32 n) hin).trans (word_zero_add _)
  · exact (congrArg State.outCount (packed_nil (p.readIn n rest)) :).trans hcount

/-- Settles O37: an empty pass leaves no tree and no code (`makeTables_empty`), so PACK has only the token to act on. -/
theorem compressEmptyInput : Obligations.CompressEmptyInput := by
  refine ⟨fun s b rest hs hq => ?_, fun s rest hs hq => ?_⟩
  · obtain ⟨t, hexec, hseq, hd, herr, hinq, hout, hroot, -, -, hin, hcount⟩ := exec_compress_empty_raises (e := .codeMiss) (info := b) (n := 1)
      (rest := rest) hs hq fun p hp hc hq => packLoop_codeMiss (s := p.clearAcc) hp (hc b) hq
    exact ⟨t, hexec, hseq, hd, herr, hinq, hout, hin, hcount, hroot⟩
  · obtain ⟨p, hbody, htables, hp⟩ := compressBody_empty (s := s.accept 0x80 (.enter .freqClear) compressRest) hs.2.2 hq
    have hinq : p.inq = .endOfPass :: rest := congrArg State.inq htables.frame
    have hflush := packLoop_flushes (s := p.clearAcc) (bits := []) hp hinq fun k hk => absurd hk (Nat.not_lt_zero k)
    have hexec := (exec_compress_ready hs).trans ((congrArg _ (hbody.trans hflush)).trans (settle_ret_free _ (by exact hp)))
    refine ⟨_, hexec, htables.root, htables.live, htables.counts.1, htables.counts.2.1,
      fun v => ⟨htables.counts.2.2 v, htables.codes v⟩, rfl, rfl, ?_⟩
    rw [show packBytes [] = [] from rfl, State.offered_nil]
    exact (congrArg (fun v : State => State.complete { v.clearAcc with inq := rest }) htables.frame :)

end Sys2Proof.Machine
end

section
/-! PROOFS. The walk over codes and over zero pad bits (spec/47_bit_unpacker.md R135, R137; 30_encoding.md R85, R86): the code of a symbol leads from the
root to its leaf, and zeros lead to the leftmost leaf again and again. -/

namespace Sys2Proof.Machine

open Sys2Proof

/-! ### Bytes and their bits -/

theorem lowBits_byteOfBits {g : List Bool} (hg : g.length = 8) : lowBits (byteOfBits g) 8 = g := by
  have hlt : bitsValue g < 2 ^ 8 := hg ▸ bitsValue_lt g
  have hbit : (byteOfBits g).getLsbD = (bitsValue g).testBit := funext fun i => by
    rw [← BitVec.testBit_toNat, byteOfBits, BitVec.toNat_ofNat, Nat.mod_eq_of_lt hlt]
  rw [lowBits, hbit, ← hg, testBits_bitsValue]

theorem bitsOfBytes_append (xs ys : List Byte) : bitsOfBytes (xs ++ ys) = bitsOfBytes xs ++ bitsOfBytes ys := List.flatMap_append

theorem bitsOfBytes_packBytes_groups (n : Nat) {bits : List Bool} (h : bits.length = 8 * n) : bitsOfBytes (packBytes bits) = bits := by
  induction n generalizing bits with
  | zero =>
    obtain rfl := List.length_eq_zero_iff.1 h
    rfl
  | succ n ih =>
    have hgroup : (bits.take 8).length = 8 := by simp; omega
    rw [← List.take_append_drop 8 bits, packBytes_group hgroup, bitsOfBytes_cons, lowBits_byteOfBits hgroup, ih (by simp; omega)]

/-- A payload's bits are the codes and the zero pad bits (R86). -/
theorem bitsOfBytes_packBytes (bits : List Bool) :
    bitsOfBytes (packBytes bits) = bits ++ List.replicate ((8 - bits.length % 8) % 8) false := by
  have hwhole : (bits.take (8 * (bits.length / 8))).length = 8 * (bits.length / 8) := by simp; omega
  have hrest : (restBits bits).length = bits.length % 8 := length_restBits bits
  have hpacked : bitsOfBytes (packBytes (restBits bits)) = restBits bits ++ List.replicate ((8 - bits.length % 8) % 8) false := by
    by_cases h : bits.length % 8 = 0
    · rw [(packBytes_of_whole h).1, h]
      rfl
    · rw [packBytes_short (by rintro hnil; rw [hnil] at hrest; exact h hrest.symm) (by omega), hrest, bitsOfBytes_cons,
        lowBits_byteOfBits (by simp; omega), Nat.mod_eq_of_lt (by omega : 8 - bits.length % 8 < 8)]
      exact List.append_nil _
  rw [packBytes_eq, fullBytes_eq, bitsOfBytes_append, bitsOfBytes_packBytes_groups _ hwhole, hpacked, ← List.append_assoc]
  exact congrArg (· ++ _) (List.take_append_drop _ bits)

theorem length_packBytes (bits : List Bool) : (packBytes bits).length = (bits.length + 7) / 8 := by
  have hrest : (restBits bits).length = bits.length % 8 := length_restBits bits
  by_cases h : bits.length % 8 = 0
  · rw [(packBytes_of_whole h).2, length_fullBytes]
    omega
  · rw [packBytes_of_partial h, List.length_append, length_fullBytes, List.length_singleton]
    omega

/-! ### The walk over a code -/

theorem CodeTree.nil_mem_paths {t : CodeTree} {v : Byte} : (v, []) ∈ t.paths ↔ t = .leaf v := by
  cases t <;> simp [CodeTree.paths, eq_comm]

theorem CodeTree.cons_mem_paths {l r : CodeTree} {v : Byte} {x : Bool} {path : List Bool} :
    (v, x :: path) ∈ (CodeTree.node l r).paths ↔ (v, path) ∈ (if x then r else l).paths := by cases x <;> simp [CodeTree.paths]

theorem CodeTree.mem_paths_leaf {u v : Byte} {path : List Bool} : (v, path) ∈ (CodeTree.leaf u).paths ↔ v = u ∧ path = [] := by
  simp [CodeTree.paths]

/-- The path from a point of the walk to a leaf leads to it and back to the root. -/
theorem WalkPoint.walk_path (tree : CodeTree) {v : Byte} {path : List Bool} {w : WalkPoint} (hnode : w.sub.isNode = true)
    (h : (v, path) ∈ w.sub.paths) : w.walk tree path = ([v], .start tree) := by
  induction path generalizing w with
  | nil => simp [CodeTree.nil_mem_paths.1 h, CodeTree.isNode] at hnode
  | cons x path ih =>
    cases hw : w.sub with
    | leaf u => simp [hw, CodeTree.isNode] at hnode
    | node l r =>
      rw [hw, CodeTree.cons_mem_paths] at h
      rw [WalkPoint.walk]
      cases hd : if x then r else l with
      | leaf u =>
        obtain ⟨rfl, rfl⟩ := CodeTree.mem_paths_leaf.1 (hd ▸ h)
        rw [WalkPoint.step_leaf tree x hw hd]
        rfl
      | node l' r' =>
        rw [WalkPoint.step_node tree x hw hd, ih rfl (hd ▸ h)]
        rfl

/-- The codes of an input lead through its symbols. -/
theorem WalkPoint.walk_codes {tree : CodeTree} (hnode : tree.isNode = true) {code : Byte → List Bool} (input : List Byte)
    (h : ∀ v ∈ input, (v, code v) ∈ tree.paths) : (WalkPoint.start tree).walk tree (input.flatMap code) = (input, .start tree) := by
  induction input with
  | nil => rfl
  | cons v input ih =>
    rw [List.flatMap_cons, WalkPoint.walk_append, WalkPoint.walk_path tree hnode (h v List.mem_cons_self),
      ih fun u hu => h u (List.mem_cons_of_mem _ hu)]
    rfl

/-! ### The walk over zeros (R137) -/

theorem CodeTree.leftmost_mem_paths (t : CodeTree) : (t.leftmost.1, List.replicate t.leftmost.2 false) ∈ t.paths := by
  induction t with
  | leaf v => exact List.mem_singleton_self _
  | node l r ihl _ => exact CodeTree.cons_mem_paths.2 ihl

theorem CodeTree.leftmost_pos {t : CodeTree} (h : t.isNode = true) : 0 < t.leftmost.2 := by
  cases t with
  | leaf v => cases h
  | node l r => exact Nat.succ_pos _

/-- Fewer zeros than the depth of the leftmost leaf lead below the root, and emit nothing. -/
theorem WalkPoint.walk_zeros_lt (tree : CodeTree) {n : Nat} {w : WalkPoint} (h : n < w.sub.leftmost.2) :
    (w.walk tree (List.replicate n false)).1 = [] ∧ (w.walk tree (List.replicate n false)).2.mid = if n = 0 then w.mid else true := by
  induction n generalizing w with
  | zero => exact ⟨rfl, rfl⟩
  | succ n ih =>
    cases hw : w.sub with
    | leaf v => simp [hw, CodeTree.leftmost] at h
    | node l r =>
      rw [hw, CodeTree.leftmost, Nat.add_lt_add_iff_right] at h
      cases l with
      | leaf v => exact absurd h (Nat.not_lt_zero n)
      | node l' r' =>
        obtain ⟨hemits, hmid⟩ := ih (w := ⟨.node l' r', w.path ++ [false], true⟩) h
        rw [List.replicate_succ, WalkPoint.walk, WalkPoint.step_node tree false hw rfl, hemits, hmid]
        exact ⟨rfl, ite_self _⟩

theorem WalkPoint.walk_zeros_mul {tree : CodeTree} (hnode : tree.isNode = true) (k : Nat) :
    (WalkPoint.start tree).walk tree (List.replicate (k * tree.leftmost.2) false) = (List.replicate k tree.leftmost.1, .start tree) := by
  induction k with
  | zero => simp [WalkPoint.walk]
  | succ k ih =>
    rw [Nat.succ_mul, Nat.add_comm, List.replicate_add, WalkPoint.walk_append, WalkPoint.walk_path tree hnode tree.leftmost_mem_paths, ih]
    rfl

/-- Zeros from the root: a byte for each time they reach the leftmost leaf. -/
theorem WalkPoint.walk_zeros {tree : CodeTree} (hnode : tree.isNode = true) (n : Nat) :
    ((WalkPoint.start tree).walk tree (List.replicate n false)).1 = List.replicate (n / tree.leftmost.2) tree.leftmost.1 ∧
      ((WalkPoint.start tree).walk tree (List.replicate n false)).2.mid = decide (n % tree.leftmost.2 ≠ 0) := by
  obtain ⟨hemits, hmid⟩ := WalkPoint.walk_zeros_lt tree (w := .start tree) (Nat.mod_lt n (CodeTree.leftmost_pos hnode))
  have hsplit : List.replicate n false = List.replicate (n / tree.leftmost.2 * tree.leftmost.2) false ++ List.replicate (n % tree.leftmost.2) false := by
    rw [← List.replicate_add, Nat.div_add_mod']
  rw [hsplit, WalkPoint.walk_append, WalkPoint.walk_zeros_mul hnode]
  refine ⟨(congrArg (_ ++ ·) hemits).trans (List.append_nil _), hmid.trans ?_⟩
  show (if n % tree.leftmost.2 = 0 then false else true) = _
  split <;> simp [*]

/-! ### The payload of an input (R137, R142) -/

/-- What UNPACK makes of the payload of an input: the input, and the bytes of the pad bits. -/
theorem CodeTree.unpacked_payload {s : State} {tree : CodeTree} {input : List Byte} {pad : Nat} (hnode : tree.isNode = true)
    (h : ∀ v ∈ input, (v, s.tableCode v) ∈ tree.paths) (hpad : pad = (8 - (s.payloadBits input).length % 8) % 8) :
    tree.unpacked (packBytes (s.payloadBits input)) =
      (input ++ List.replicate (pad / tree.leftmost.2) tree.leftmost.1, decide (pad % tree.leftmost.2 ≠ 0)) := by
  obtain ⟨hemits, hmid⟩ := WalkPoint.walk_zeros hnode pad
  have hwalk := ((WalkPoint.start tree).walk_eq tree (bitsOfBytes (packBytes (s.payloadBits input)))).1
  rw [bitsOfBytes_packBytes, ← hpad, WalkPoint.walk_append, show s.payloadBits input = input.flatMap s.tableCode from rfl,
    WalkPoint.walk_codes hnode input h, hemits, hmid] at hwalk
  rw [CodeTree.unpacked, bitsOfBytes_packBytes, ← hpad]
  exact hwalk

end Sys2Proof.Machine
end

section
/-! PROOFS. COMPRESS of an input (spec/48_composite.md R139): the pass is counted, the tree of its symbols is built and has a code for each, the header and
the payload go out. -/

namespace Sys2Proof.Machine

open Sys2Proof

/-! ### The counts of a pass -/

theorem countsAgree_clearFreq (s : State) : s.clearFreq.CountsAgree := by
  have hcells : s.clearFreq.freq.cells = List.replicate 256 0 := rfl
  refine ⟨?_, ?_⟩
  · rw [hcells, List.map_replicate, List.sum_replicate]
    rfl
  · rw [hcells, List.filter_replicate_of_neg (by decide)]
    rfl

/-- FREQ_COUNT after FREQ_CLEAR (R102, R103). -/
theorem freqCountBody_counts {s : State} {input : List Byte} {ts : List Token} (hp : s.pace = none) (hq : s.inq = passOf input ts)
    (hlen : input.length < 2 ^ 32) : ∃ c, freqCountBody s.clearFreq = .ret c ∧ (∀ v, (c.freqOf v).toNat = input.count v) ∧
      c = { s with inq := ts, inCount := s.inCount + BitVec.ofNat 32 input.length, freq := c.freq, total := c.total, nsym := c.nsym } := by
  obtain ⟨t, hk, hrest, hloop⟩ := countLoop_counts (s := s.clearFreq) (rest := .endOfPass :: ts) hp (countsAgree_clearFreq s) hq
    (by rw [show s.clearFreq.total.toNat = 0 from rfl]; omega)
  have hpt : t.pace = none := (congrArg State.pace hk.frame).trans hp
  refine ⟨_, hloop.trans (countLoop_endOfPass hpt hrest), fun v => ?_, ?_⟩
  · have hzero : s.clearFreq.freqOf v = 0 := Table.get_fill _ _
    have h := hk.freq v
    rw [hzero] at h
    exact h.trans (Nat.zero_add _)
  · rw [show s.inCount + BitVec.ofNat 32 input.length = t.inCount from hk.inCount.symm]
    exact (congrArg (fun u : State => { u with inq := ts }) hk.frame :)

theorem mem_usedSymbols {c : State} {input : List Byte} (h : ∀ v, (c.freqOf v).toNat = input.count v) (v : Byte) :
    v ∈ c.usedSymbols ↔ v ∈ input := by
  have hmem : v ∈ symbols := List.mem_map.2 ⟨v.toNat, List.mem_range.2 v.isLt, by simp⟩
  rw [State.usedSymbols_eq, List.mem_filter, bne_iff_ne, ne_eq, BitVec.toNat_eq, h v]
  simp [hmem, List.count_eq_zero]

/-! ### The tree of some symbols -/

/-- A heap of leaves holds these symbols, in some order. -/
theorem buildHeap_symbols (c : State) :
    ∃ vs : List Byte, vs.Perm c.usedSymbols ∧ c.buildHeap.live = vs.length ∧ c.buildHeap.liveHeap = vs.map leafSlot := by
  obtain ⟨-, htail, hperm⟩ := buildHeap_law c
  have hvalues : (c.buildHeap.liveHeap.map leafValue).Perm c.usedSymbols := by
    have h := hperm.map leafValue
    rwa [List.map_map, show leafValue ∘ leafSlot = id from funext leafValue_leafSlot, List.map_id] at h
  refine ⟨_, hvalues, by rw [List.length_map, State.length_liveHeap htail.1], ?_⟩
  rw [List.map_map]
  refine ((List.map_congr_left fun n hn => ?_).trans (List.map_id _)).symm
  obtain ⟨v, -, rfl⟩ := List.mem_map.1 (hperm.mem_iff.1 hn)
  simp

/-- Two leaves or more are merged until one tree is left (R118). -/
theorem treeBuild_bears_many {b : State} {vs : List Byte} (hvs : 2 ≤ vs.length) (hlive : b.live = vs.length) (hheap : b.liveHeap = vs.map leafSlot)
    (hnext : b.nextInt = 256) : ∃ p tree, b.treeBuild = .ok p ∧ p.HasTree tree ∧ ∀ v ∈ vs, v ∈ tree.leaves := by
  obtain ⟨u, tree, hbuild, hbuilt, h1, ⟨hdenotes, -⟩, hleaves, hinternals, hnode⟩ := treeBuild_of_leaves hlive hheap hvs hnext
  have hroom := hbuilt.room
  have hnodes : tree.internals ≤ 255 := by
    have : u.nextInt.toNat < 512 := u.nextInt.isLt
    omega
  exact ⟨_, tree, hbuild, ⟨hdenotes.eq_node hnode, hnodes, State.Denotes.congr (s := u) (u := { u with root := u.heapAt 0 }) rfl hdenotes.denotes⟩,
    fun v hv => hleaves.mem_iff.2 hv⟩

/-- One leaf stands for both children of an internal node (R116). -/
theorem treeBuild_bears_one {b : State} {v : Byte} (hlive : b.live = 1) (hheap : b.liveHeap = [leafSlot v]) (hnext : b.nextInt = 256) :
    ∃ p, b.treeBuild = .ok p ∧ p.HasTree (.node (.leaf v) (.leaf v)) := by
  have hfirst : b.heapAt 0 = leafSlot v := by
    rw [State.liveHeap_of_one hlive] at hheap
    exact (List.cons.inj hheap).1
  refine ⟨_, State.treeBuild_leaf hlive hfirst hnext, rfl, by simp [CodeTree.internals], 0, slot?_eq_some_iff.2 rfl, ?_⟩
  simp [State.Denotes]

theorem treeBuild_bears {b : State} {vs : List Byte} (hne : vs ≠ []) (hlive : b.live = vs.length) (hheap : b.liveHeap = vs.map leafSlot)
    (hnext : b.nextInt = 256) : ∃ p tree, b.treeBuild = .ok p ∧ p.HasTree tree ∧ ∀ v ∈ vs, v ∈ tree.leaves := by
  match vs, hne with
  | [v], _ =>
    obtain ⟨p, hbuild, htree⟩ := treeBuild_bears_one hlive hheap hnext
    exact ⟨p, _, hbuild, htree, by simp [CodeTree.leaves]⟩
  | u :: v :: vs, _ => exact treeBuild_bears_many (by simp) hlive hheap hnext

theorem CodeTree.exists_path {t : CodeTree} {v : Byte} (h : v ∈ t.leaves) : ∃ path, (v, path) ∈ t.paths := by
  induction t with
  | leaf u => exact ⟨[], CodeTree.nil_mem_paths.2 (by rw [List.mem_singleton.1 h])⟩
  | node l r ihl ihr =>
    rcases List.mem_append.1 h with h | h
    · obtain ⟨path, hpath⟩ := ihl h
      exact ⟨false :: path, CodeTree.cons_mem_paths.2 hpath⟩
    · obtain ⟨path, hpath⟩ := ihr h
      exact ⟨true :: path, CodeTree.cons_mem_paths.2 hpath⟩

theorem CodeTree.codeOf_ne_none {t : CodeTree} {v : Byte} (h : v ∈ t.leaves) : t.codeOf v ≠ none := by
  obtain ⟨path, hpath⟩ := CodeTree.exists_path h
  intro hnone
  have := List.lookup_eq_none_iff.1 hnone _ hpath
  simp at this

/-! ### The tables of a pass -/

/-- The state less what the stages up to CODES_DERIVE write (R139). -/
def State.lessTables (s : State) : State :=
  { s with
    inq := [], inCount := 0, freq := .fill 256 0, total := 0, nsym := 0, node := .fill 255 .clear, nextInt := 0, root := 0, heap := .fill 256 0
    heapSize := 0, draws := 0, codeLen := .fill 256 0, codeBits := .fill 256 0, stack := [] }

/-- p once the stages up to CODES_DERIVE have taken this pass: a tree, and each byte of the pass has its path as its code. -/
structure State.Tabled (s : State) (input : List Byte) (ts : List Token) (tree : CodeTree) (p : State) : Prop where
  hasTree : p.HasTree tree
  coded : ∀ v ∈ input, p.codeLenOf v ≠ 0
  paths : ∀ v ∈ input, (v, p.tableCode v) ∈ tree.paths
  inq : p.inq = ts
  inCount : p.inCount = s.inCount + BitVec.ofNat 32 input.length
  frame : p.lessTables = s.lessTables

theorem makeTables_tabled {s : State} {input : List Byte} {ts : List Token} (hp : s.pace = none) (hq : s.inq = passOf input ts)
    (hlen : input.length < 2 ^ 32) (hne : input ≠ []) : ∃ p tree, makeTables s = .ret p ∧ s.Tabled input ts tree p := by
  obtain ⟨c, hcount, hfreq, hframe⟩ := freqCountBody_counts hp hq hlen
  have hpc : c.pace = none := (congrArg State.pace hframe).trans hp
  obtain ⟨vs, hvs, hlive, hheap⟩ := buildHeap_symbols c
  have hmem : ∀ v, v ∈ vs ↔ v ∈ input := fun v => hvs.mem_iff.trans (mem_usedSymbols hfreq v)
  obtain ⟨v, hv⟩ := List.exists_mem_of_ne_nil input hne
  have honly := (buildHeap_law c).1
  obtain ⟨b, tree, hbuild, htree, hleaves⟩ := treeBuild_bears (List.ne_nil_of_mem ((hmem v).2 hv)) hlive hheap honly.nextInt
  obtain ⟨p, hderive, hrecords⟩ := htree.deriveCodes
  have hcodes := deriveCodes_lessCodes hderive
  have hbless := treeBuild_lessTree hbuild
  have hpb : b.pace = none := (congrArg State.pace (hbless.trans honly.lessTree) :).trans hpc
  have hkept : p.lessCodes.lessTree = c.lessTree.lessCodes :=
    (congrArg State.lessTree hcodes).trans (congrArg State.lessCodes (hbless.trans honly.lessTree) :)
  have hcoded : ∀ v ∈ input, p.codeLenOf v ≠ 0 := fun v hv =>
    mt (hrecords v).codeLenOf_eq_zero_iff.1 (CodeTree.codeOf_ne_none (hleaves v ((hmem v).2 hv)))
  refine ⟨p, tree, ?_, htree.congr (congrArg State.node hcodes :) (congrArg State.root hcodes :), hcoded,
    fun v hv => (hrecords v).tableCode_mem_paths (hcoded v hv), ?_, ?_, ?_⟩
  · rw [makeTables_of_counted hp hcount hpc, hbuild, Run.ofExcept, Run.andThen_free hpb, stageBody, codesDeriveBody, hderive, Run.ofExcept]
  · exact (congrArg State.inq hkept :).trans (congrArg State.inq hframe)
  · exact (congrArg State.inCount hkept :).trans (congrArg State.inCount hframe)
  · exact (congrArg State.lessTables hkept :).trans (congrArg State.lessTables hframe :)

section tabled
variable {s p : State} {input : List Byte} {ts : List Token} {tree : CodeTree} (h : s.Tabled input ts tree p)
include h

theorem State.Tabled.pace : p.pace = s.pace := (congrArg State.pace h.frame :)

theorem State.Tabled.accepts {n : Nat} (ha : s.Accepts n) : p.Accepts n := by
  have hanswer : p.answerAt = s.answerAt := (congrArg State.answerAt h.frame :)
  exact fun k hk => (congrFun hanswer k).trans (ha k hk)

end tabled

/-! ### The header and the payload -/

/-- A code has at most 255 bits (R34). -/
theorem State.length_payloadBits_le (s : State) (bytes : List Byte) : (s.payloadBits bytes).length ≤ 255 * bytes.length := by
  induction bytes with
  | nil => exact le_rfl
  | cons b bytes ih =>
    have hcode : (s.tableCode b).length = (s.codeLenOf b).toNat := s.length_codeTail b _
    have hlen := (s.codeLenOf b).isLt
    rw [State.payloadBits, List.flatMap_cons, List.length_append, List.length_cons, hcode]
    rw [State.payloadBits] at ih
    omega

theorem State.tableCode_congr {s t : State} (h : t.codePart = s.codePart) : t.tableCode = s.tableCode := by
  obtain ⟨hlen, hbits⟩ := Prod.mk.inj h
  funext v
  rw [State.tableCode, State.codeLenOf, State.codeBitsOf, hlen, hbits]
  rfl

theorem State.payloadBits_congr {s t : State} (h : t.codePart = s.codePart) : t.payloadBits = s.payloadBits := by
  funext bytes
  rw [State.payloadBits, State.tableCode_congr h, State.payloadBits]

/-- p once TREE_SERIALIZE has emitted the header of its tree and PACK has cleared ACC (R123, R130). -/
def State.serialized (p : State) (tree : CodeTree) : State := State.clearAcc { p.offered tree.header with stack := [] }

/-- COMPRESS's body up to the token after the bytes of its second pass. -/
theorem compressBody_packs {s : State} {input bytes : List Byte} {ts : List Token} (hp : s.pace = none) (hlen : input.length < 2 ^ 32)
    (hne : input ≠ []) (hsub : ∀ b ∈ bytes, b ∈ input) (hq : s.inq = passOf input (bytes.map .byte ++ ts))
    (ha : s.Accepts (768 + 32 * bytes.length)) : ∃ p tree, s.Tabled input (bytes.map .byte ++ ts) tree p ∧
      compressBody s = packLoop (((p.serialized tree).readIn bytes.length ts).packed (p.payloadBits bytes)) ∧
      (p.serialized tree).Accepts (packBytes (p.payloadBits bytes)).length := by
  obtain ⟨p, tree, hmake, h⟩ := makeTables_tabled hp hq hlen hne
  have hpp : p.pace = none := h.pace.trans hp
  have hheader : tree.header.length ≤ 767 := h.hasTree.length_header_le
  have hbits := p.length_payloadBits_le bytes
  have hpacked := length_packBytes (p.payloadBits bytes)
  have haccepts : p.Accepts (tree.header.length + (packBytes (p.payloadBits bytes)).length) := h.accepts (ha.mono (by omega))
  have hserial := treeSerializeBody_completes h.hasTree hpp (haccepts.mono (Nat.le_add_right _ _))
  have hroom : (p.serialized tree).Accepts (packBytes (p.payloadBits bytes)).length := State.Accepts.offered (s := p) haccepts
  refine ⟨p, tree, h, ?_, hroom⟩
  have hloop := packLoop_packed (s := p.serialized tree) (bits := []) (ts := ts) hpp bytes (fun b hb => h.coded b (hsub b hb)) h.inq
    (hroom.mono (by rw [List.length_nil, Nat.zero_add]; exact div_eight_le_length_packBytes _))
  rw [State.serialized, packed_nil] at hloop
  rw [compressBody_eq, hmake, Run.andThen_free hpp, stageBody, hserial, Run.andThen_free (by exact hpp)]
  exact hloop

/-- p once these payload bytes have been emitted too, with this in the accumulator. -/
def State.payloadSent (p : State) (tree : CodeTree) (n : Nat) (rest : List Token) (bytes : List Byte) (acc : Byte) (accN : BitVec 3) : State :=
  { p with
    acc := acc, accN := accN, stack := [], inq := rest, inCount := p.inCount + BitVec.ofNat 32 n
    sink := p.sink.drop (tree.header ++ bytes).length, out := p.out ++ (tree.header ++ bytes)
    outCount := p.outCount + BitVec.ofNat 32 (tree.header ++ bytes).length }

theorem flushed_eq_payloadSent (p : State) (tree : CodeTree) (n : Nat) (ts rest : List Token) (bytes : List Byte) :
    State.clearAcc (State.offered { (p.serialized tree).readIn n ts with inq := rest } bytes) = p.payloadSent tree n rest bytes 0 0 := by
  simp [State.offered, State.serialized, State.readIn, State.clearAcc, State.payloadSent, BitVec.ofNat_add, BitVec.add_assoc]

theorem packed_eq_payloadSent (p : State) (tree : CodeTree) (n : Nat) (ts rest : List Token) (bits : List Bool) :
    { ((p.serialized tree).readIn n ts).packed bits with inq := rest } = p.payloadSent tree n rest (fullBytes bits)
      (BitVec.ofNat 8 (bitsValue (restBits bits))) (BitVec.ofNat 3 (bits.length % 8)) := by
  simp [State.packed, State.offered, State.serialized, State.readIn, State.clearAcc, State.payloadSent, BitVec.ofNat_add, BitVec.add_assoc]

/-! ### COMPRESS completes (R139) -/

/-- What COMPRESS of an input leaves. -/
theorem exec_compress_completes {s : State} {input : List Byte} {rest : List Token} (hs : s.Ready) (hlen : input.length < 2 ^ 32)
    (hne : input ≠ []) (hq : s.inq = passOf input (passOf input rest)) (ha : s.Accepts (768 + 32 * input.length)) :
    ∃ t tree artifact, exec .compress s = .next t ∧ t.HasTree tree ∧ (∀ v ∈ input, (v, t.tableCode v) ∈ tree.paths) ∧
      artifact = tree.header ++ packBytes (t.payloadBits input) ∧ t.seq = .idle ∧ t.done = true ∧ t.err = s.err ∧ t.inq = rest ∧
      t.out = s.out ++ artifact ∧ t.inCount = BitVec.ofNat 32 (2 * input.length) ∧ t.outCount = BitVec.ofNat 32 artifact.length := by
  obtain ⟨p, tree, h, hbody, hroom⟩ := compressBody_packs (s := s.accept 0x80 (.enter .freqClear) compressRest) (ts := .endOfPass :: rest) hs.2.2 hlen
    hne (fun _ hb => hb) hq ha
  have hp : p.pace = none := h.pace.trans hs.2.2
  have hflush := packLoop_flushes (s := (p.serialized tree).readIn input.length (.endOfPass :: rest)) hp rfl (hroom.readIn _ _)
  have hexec := exec_compress_ready hs
  rw [hbody, hflush, flushed_eq_payloadSent, settle_ret_free 0x80 (by exact hp)] at hexec
  have hcode := State.tableCode_congr (s := p) (t := (p.payloadSent tree input.length rest (packBytes (p.payloadBits input)) 0 0).complete) rfl
  have hbits := State.payloadBits_congr (s := p) (t := (p.payloadSent tree input.length rest (packBytes (p.payloadBits input)) 0 0).complete) rfl
  refine ⟨_, tree, tree.header ++ packBytes (p.payloadBits input), hexec, h.hasTree.congr rfl rfl, fun v hv => hcode ▸ h.paths v hv,
    by rw [hbits], rfl, rfl, (congrArg State.err h.frame :), rfl, ?_, ?_, ?_⟩
  · exact congrArg (· ++ (tree.header ++ packBytes (p.payloadBits input))) (congrArg State.out h.frame :)
  · show p.inCount + BitVec.ofNat 32 input.length = BitVec.ofNat 32 (2 * input.length)
    rw [h.inCount, two_mul, BitVec.ofNat_add]
    exact congrArg (· + BitVec.ofNat 32 input.length) (word_zero_add _)
  · have hcount : p.outCount = 0 := (congrArg State.outCount h.frame :)
    show p.outCount + _ = _
    rw [hcount, word_zero_add]

/-! ### There and back (R142) -/

/-- DECOMPRESS of the empty artifact (R126, R141). -/
theorem exec_decompress_empty {u : State} {rest : List Token} (hu : u.Ready) (hq : u.inq = .endOfPass :: rest) :
    ∃ v, exec .decompress u = .next v ∧ v.seq = .idle ∧ v.done = true ∧ v.err = u.err ∧ v.inq = rest ∧ v.out = u.out ∧ v.emptyArt = true := by
  obtain ⟨v, hv, -, -, hframe⟩ := treeDeserializeEmptyArtifact u rest hu hq
  have hseq : v.seq = .idle := congrArg State.seq hframe
  have hdone : v.done = true := congrArg State.done hframe
  have hempty : v.emptyArt = true := congrArg State.emptyArt hframe
  have hcompletes : Completes [.treeDeserialize] u (v.inCount + 0) (v.outCount + 0) v := ⟨v, 0, 0, hv, hseq, hdone, ⟨rfl, rfl, rfl⟩, rfl, rfl⟩
  exact ⟨v, (decompressEqualsSequence.2 u v _ _ hu hcompletes).1 hempty, hseq, hdone, (congrArg State.err hframe :), congrArg State.inq hframe,
    (congrArg State.out hframe :), hempty⟩

/-- Settles O41: the codes lead back through the input, and the pad bits to the leftmost leaf (`CodeTree.unpacked_payload`). -/
theorem compressThenDecompress : Obligations.CompressThenDecompress := by
  intro s u input rest rest' hs hu hlen hq ha
  by_cases hne : input = []
  · subst hne
    obtain ⟨t, hexec, -, -, -, -, -, -, -, hframe⟩ := compressEmptyInput.2 s rest hs hq
    refine ⟨t, [], hexec, congrArg State.seq hframe, congrArg State.done hframe, (congrArg State.err hframe :), congrArg State.inq hframe,
      (congrArg State.out hframe :).trans (List.append_nil _).symm, congrArg State.inCount hframe, congrArg State.outCount hframe, fun huq _ => ?_⟩
    obtain ⟨v, hv, hseq, hdone, herr, hinq, hout, hempty⟩ := exec_decompress_empty hu huq
    exact ⟨v, hv, hseq, hdone, herr, hinq, fun _ => ⟨rfl, hout, hempty⟩, fun h => absurd rfl h⟩
  obtain ⟨t, tree, artifact, hexec, htree, hpaths, hartifact, hseq, hdone, herr, hinq, hout, hin, hcount⟩ :=
    exec_compress_completes hs hlen hne hq ha
  refine ⟨t, artifact, hexec, hseq, hdone, herr, hinq, hout, hin, hcount, fun huq hua => ?_⟩
  have hpayload := CodeTree.unpacked_payload (s := t) (input := input) htree.1 hpaths rfl
  have hroom : (tree.unpacked (packBytes (t.payloadBits input))).1.length ≤ 256 * input.length := by
    have hpos := List.length_pos_iff.2 hne
    have hphantoms := Nat.div_le_self ((8 - (t.payloadBits input).length % 8) % 8) tree.leftmost.2
    rw [hpayload, List.length_append, List.length_replicate]
    omega
  obtain ⟨v, hv, -, -, -, hmid, hframe⟩ := decompressDecodesArtifact u tree (packBytes (t.payloadBits input)) rest' hu htree.1 htree.2.1
    (hartifact ▸ huq) (hua.mono hroom)
  rw [hpayload] at hmid
  have hvout : v.out = u.out ++ (tree.unpacked (packBytes (t.payloadBits input))).1 := congrArg State.out hframe
  rw [hpayload, ← List.append_assoc] at hvout
  exact ⟨v, hv, congrArg State.seq hframe, congrArg State.done hframe, (congrArg State.err hframe :), congrArg State.inq hframe,
    fun h => absurd h hne, fun _ => ⟨tree, _, htree, rfl, hvout, hmid⟩⟩

end Sys2Proof.Machine
end

section
/-! PROOFS. A `Fail` in COMPRESS's second pass (spec/48_composite.md R139; 60_exceptions.md R151, R152), and the statement on the six commands that read
IN. -/

namespace Sys2Proof.Machine

open Sys2Proof

theorem packLoop_packed_fail {s : State} {ts : List Token} (bits : List Bool) (hp : s.pace = none) (hq : s.inq = .fail :: ts) :
    packLoop (s.packed bits) = .raised .srcIo 0 { s.packed bits with inq := ts } := packLoop_fail (s := s.packed bits) hp hq

theorem packed_nil_readIn_zero (p : State) (rest : List Token) : (p.clearAcc.readIn 0 rest).packed [] = { p.clearAcc.packed [] with inq := rest } := by
  rw [packed_nil, show p.clearAcc.readIn 0 rest = (p.readIn 0 rest).clearAcc from rfl, packed_nil]
  simp [State.readIn, State.clearAcc]

/-- What COMPRESS leaves: the header and the full payload bytes out, the other bits in ACC. -/
theorem exec_compress_fail {s : State} {input bytes : List Byte} {rest : List Token} (hs : s.Ready) (hlen : input.length < 2 ^ 32)
    (hne : input ≠ []) (hsub : ∀ b ∈ bytes, b ∈ input) (hq : s.inq = passOf input (bytes.map .byte ++ .fail :: rest))
    (ha : s.Accepts (768 + 32 * bytes.length)) :
    ∃ t tree emitted, exec .compress s = .next t ∧ t.HasTree tree ∧
      emitted = tree.header ++ fullBytes (t.payloadBits bytes) ∧
      t.seq = .idle ∧ t.done = false ∧ t.err = ⟨0x01, 0x80, 0, 1⟩ ∧ t.inq = rest ∧ t.out = s.out ++ emitted ∧
      t.accN.toNat = (t.payloadBits bytes).length % 8 ∧ t.acc.toNat = bitsValue (restBits (t.payloadBits bytes)) ∧
      t.inCount = BitVec.ofNat 32 (input.length + bytes.length) ∧ t.outCount = BitVec.ofNat 32 emitted.length ∧ t.cur = s.cur := by
  obtain ⟨p, tree, h, hbody, -⟩ := compressBody_packs (s := s.accept 0x80 (.enter .freqClear) compressRest) (ts := .fail :: rest) hs.2.2 hlen
    hne hsub hq ha
  have hp : p.pace = none := h.pace.trans hs.2.2
  have hfail := packLoop_packed_fail (s := (p.serialized tree).readIn bytes.length (.fail :: rest)) (p.payloadBits bytes) hp rfl
  have hexec := exec_compress_ready hs
  rw [hbody, hfail, packed_eq_payloadSent, settle_raised_free 0x80 _ _ (by exact hp)] at hexec
  generalize hacc : BitVec.ofNat 8 (bitsValue (restBits (p.payloadBits bytes))) = acc at hexec
  generalize haccN : BitVec.ofNat 3 ((p.payloadBits bytes).length % 8) = accN at hexec
  have hbits := State.payloadBits_congr (s := p) (t := (p.payloadSent tree bytes.length rest (fullBytes (p.payloadBits bytes)) acc accN).raiseError 0x80
    .srcIo 0) rfl
  refine ⟨_, tree, tree.header ++ fullBytes (p.payloadBits bytes), hexec, h.hasTree.congr rfl rfl, by rw [hbits], rfl,
    (congrArg State.done h.frame :), rfl, rfl, ?_, ?_, ?_, ?_, ?_, (congrArg State.cur h.frame :)⟩
  · exact congrArg (· ++ (tree.header ++ fullBytes (p.payloadBits bytes))) (congrArg State.out h.frame :)
  · rw [hbits, ← ofNat_length_mod_eight_toNat, haccN]
    rfl
  · rw [hbits, ← ofNat_bitsValue_restBits_toNat, hacc]
    rfl
  · show p.inCount + BitVec.ofNat 32 bytes.length = BitVec.ofNat 32 (input.length + bytes.length)
    rw [h.inCount, BitVec.ofNat_add]
    exact congrArg (· + BitVec.ofNat 32 bytes.length) (word_zero_add _)
  · have hcount : p.outCount = 0 := (congrArg State.outCount h.frame :)
    show p.outCount + _ = _
    rw [hcount, word_zero_add]

/-- Settles O36: each loop raises at the `Fail` with what it has done before it. -/
theorem failTokenRaisesSrcIo : Obligations.FailTokenRaisesSrcIo :=
  ⟨fun _ _ _ hs hq hi => exec_fail_first hs hq hi, fun _ _ _ hs hc hq ha => exec_pack_fail hs hc hq ha,
    fun _ _ _ _ hs h hq ha => exec_unpack_fail hs h hq ha, fun _ _ _ _ hs hnode hsize hq ha => exec_decompress_fail hs hnode hsize hq ha,
    fun _ _ _ _ hs hlen hne hsub hq ha => exec_compress_fail hs hlen hne hsub hq ha, fun s rest hs hq => by
      obtain ⟨t, hexec, hseq, hd, herr, hinq, hout, hroot, hacc, haccN, hin, hcount⟩ := exec_compress_empty_raises (e := .srcIo) (info := 0) (n := 0)
        (rest := rest) hs hq fun p hp _ hq => by
          rw [packed_nil_readIn_zero]
          exact packLoop_packed_fail (s := p.clearAcc) [] hp hq
      exact ⟨t, hexec, hseq, hd, herr, hinq, hout, hroot, hacc, haccN, hin, hcount⟩⟩

end Sys2Proof.Machine
end
